-- ==== Sys2Proof/Word.lean ====
section
/-! DEFINITION. The 32-bit word of the block and the 80-bit command word, with the two readings of a
word (rules R7, R13, R14, R71). -/

namespace Sys2Proof

/-- A 32-bit pattern: every value, operand and full-width register of the block (R7). -/
abbrev Word := BitVec 32

/-- One 80-bit command word (R71). -/
abbrev CmdWord := BitVec 80

/-- `s32(p)`: the pattern read as a two's-complement signed integer (R13). -/
abbrev s32 (p : Word) : Int := p.toInt

/-- `u32(p)`: the pattern read as an unsigned integer (R13). -/
abbrev u32 (p : Word) : Nat := p.toNat

/-- `wrap(x)`: the low 32 bits of an integer, the block's only overflow behaviour (R14). -/
abbrev wrap (x : Int) : Word := BitVec.ofInt 32 x

end Sys2Proof
end

