-- ==== Sys2Proof/Syntax.lean ====
section
/-! DEFINITION. The 20 commands of the opcode map (rule R75), each with the operand fields its shape reads
(rule R73), the names of the 29 mapped registers (rule R21) and the pseudo-instructions of the notation
(rule R81). -/

namespace Sys2Proof

/-- The commands (R75). A field a command does not read is no part of it (R73). -/
inductive Instr where
  /-- NOP (R176). -/
  | nop
  /-- RDREG: `a` is a register index (R177). -/
  | rdreg (a : Word)
  /-- WRREG: `a` is a register index, `b` the value (R178). -/
  | wrreg (a b : Word)
  /-- FX_ADD (R97). -/
  | fxAdd (a b : Word)
  /-- FX_SUB (R98). -/
  | fxSub (a b : Word)
  /-- FX_MUL: `f` is the fractional-bit count (R99). -/
  | fxMul (f : BitVec 8) (a b : Word)
  /-- FX_DIV: `a` the dividend, `b` the divisor (R100). -/
  | fxDiv (f : BitVec 8) (a b : Word)
  /-- FX_CMP (R101). -/
  | fxCmp (a b : Word)
  /-- FX_CVT: `f` the source format, `b` the destination format (R102). -/
  | fxCvt (f : BitVec 8) (a b : Word)
  /-- LFSR_PROC (R136). -/
  | lfsrProc
  /-- PH_PROC (R112). -/
  | phProc
  /-- PH_SETPERIOD: `a` is samples, `b` is multiplier (R111). -/
  | phSetPeriod (a b : Word)
  /-- ENV_PROC (R123). -/
  | envProc
  /-- ENV_START (R121). -/
  | envStart
  /-- ENV_STOP (R122). -/
  | envStop
  /-- TG_PROC (R163). -/
  | tgProc
  /-- TG_RESET (R162). -/
  | tgReset
  /-- SCH_PROC: `a` is the input sample (R147). -/
  | schProc (a : Word)
  /-- TD_PROC: `a` is the input sample (R156). -/
  | tdProc (a : Word)
  /-- CRD_PROC: bit 0 of `a` is `triggered` (R172). -/
  | crdProc (a : Word)
  deriving DecidableEq, Repr

/-- The 29 mapped registers by name (R21). -/
inductive Reg where
  | status | config | srate | dconst
  | lfsrValue | lfsrMask | lfsrBits
  | phPhase | phDelta
  | envPhase | envState | envAttack | envDecay | envHold
  | tgCount | tgDelay | tgWidth | tgAmp
  | schLo | schHi | schLast | schState
  | tdLo | tdHi | tdLast | tdState | tdLastVal
  | crdCount | crdInterval
  deriving DecidableEq, Repr

/-- The access column of the register map (R21). -/
inductive Access where
  | ro | rw | const
  deriving DecidableEq, Repr

/-- The pseudo-instructions of the notation (R81). -/
inductive Pseudo where
  | fxFromInt (f : BitVec 8) (n : Word)
  | fxToInt (f : BitVec 8) (x : Word)
  | lfsrConfig (bits mask seed : Word)
  | envConfig (attack decay hold : Word)
  | tgConfig (delay width amp : Word)
  | schConfig (lo hi : Word)
  | tdConfig (lo hi : Word)
  | crdTrig
  | crdTick
  deriving DecidableEq, Repr

end Sys2Proof
end

