-- ==== Sys2Proof/WellFormed.lean ====
section
/-! DEFINITION. Which commands have legal operands (rules R74, R77): exactly those that are executed and not
refused with ILLEGAL_OPERAND. Written from the lists of R21, R77 and R178 as numbers, on its own, so that a
statement can hold the machine's register map and refusals against it. An instruction with illegal operands
is still an instruction: it has an encoding, it decodes, and the machine refuses it (R185; DESIGN CHOICE, log entry 9). -/

namespace Sys2Proof

/-- The 29 mapped register indices (R21). -/
def mappedIndices : List Nat :=
  [0x00, 0x01, 0x02, 0x03, 0x10, 0x11, 0x12, 0x20, 0x21, 0x30, 0x31, 0x32, 0x33, 0x34,
   0x40, 0x41, 0x42, 0x43, 0x50, 0x51, 0x52, 0x53, 0x60, 0x61, 0x62, 0x63, 0x64, 0x70, 0x71]

/-- The 13 writable register indices (R178). -/
def writableIndices : List Nat :=
  [0x10, 0x11, 0x12, 0x32, 0x33, 0x34, 0x41, 0x42, 0x43, 0x50, 0x51, 0x60, 0x61]

/-- A legal fractional-bit count is 0 .. 31 (R74). -/
def legalFormat (f : Nat) : Bool := decide (f < 32)

/-- A legal WRREG: a writable index, and for LFSR_BITS (0x12) a value in 1 .. 32 (R77, R178). -/
def legalWrite (idx v : Nat) : Bool :=
  writableIndices.contains idx && (idx != 0x12 || (decide (1 ≤ v) && decide (v ≤ 32)))

/-- The command's operands are legal (R77). -/
def Instr.wellFormed : Instr → Bool
  | .nop => true
  | .rdreg a => mappedIndices.contains a.toNat
  | .wrreg a b => legalWrite a.toNat b.toNat
  | .fxAdd _ _ => true
  | .fxSub _ _ => true
  | .fxMul f _ _ => legalFormat f.toNat
  | .fxDiv f _ _ => legalFormat f.toNat
  | .fxCmp _ _ => true
  | .fxCvt f _ b => legalFormat f.toNat && legalFormat b.toNat
  | .lfsrProc => true
  | .phProc => true
  | .phSetPeriod _ _ => true
  | .envProc => true
  | .envStart => true
  | .envStop => true
  | .tgProc => true
  | .tgReset => true
  | .schProc _ => true
  | .tdProc _ => true
  | .crdProc _ => true

end Sys2Proof
end

