-- ==== Sys2Proof/Decode.lean ====
section
/-! DEFINITION. The command word's fields (rule R71), the decoder (rules R73 to R78: it looks at `op` alone,
is total, and rejects the 236 unused opcodes by name), the encoder, and the opcode table's numbering of a
row's bits. -/

namespace Sys2Proof

/-- `op`, bits 79:72 (R71). -/
def cmdOp (w : CmdWord) : BitVec 8 := w.extractLsb' 72 8

/-- `f`, bits 71:64 (R71). -/
def cmdF (w : CmdWord) : BitVec 8 := w.extractLsb' 64 8

/-- `a`, bits 63:32 (R71). -/
def cmdA (w : CmdWord) : Word := w.extractLsb' 32 32

/-- `b`, bits 31:0 (R71). -/
def cmdB (w : CmdWord) : Word := w.extractLsb' 0 32

/-- The command word with the given four fields (R71). -/
def packCmd (op f : BitVec 8) (a b : Word) : CmdWord := op ++ f ++ a ++ b

/-- Why a word is not one of the 20 commands. -/
inductive DecodeError where
  /-- `op` is none of the 20 opcodes (R76). -/
  | illegalOpcode (op : BitVec 8)
  deriving DecidableEq, Repr

/-- The decoder: `op` selects the command, whatever the fields the command does not read hold
(R73, R75, R76). -/
def decode (w : CmdWord) : Except DecodeError Instr :=
  match (cmdOp w).toNat with
  | 0x00 => .ok .nop
  | 0x01 => .ok (.rdreg (cmdA w))
  | 0x02 => .ok (.wrreg (cmdA w) (cmdB w))
  | 0x10 => .ok (.fxAdd (cmdA w) (cmdB w))
  | 0x11 => .ok (.fxSub (cmdA w) (cmdB w))
  | 0x12 => .ok (.fxMul (cmdF w) (cmdA w) (cmdB w))
  | 0x13 => .ok (.fxDiv (cmdF w) (cmdA w) (cmdB w))
  | 0x14 => .ok (.fxCmp (cmdA w) (cmdB w))
  | 0x15 => .ok (.fxCvt (cmdF w) (cmdA w) (cmdB w))
  | 0x20 => .ok .lfsrProc
  | 0x30 => .ok .phProc
  | 0x31 => .ok (.phSetPeriod (cmdA w) (cmdB w))
  | 0x40 => .ok .envProc
  | 0x41 => .ok .envStart
  | 0x42 => .ok .envStop
  | 0x50 => .ok .tgProc
  | 0x51 => .ok .tgReset
  | 0x60 => .ok (.schProc (cmdA w))
  | 0x70 => .ok (.tdProc (cmdA w))
  | 0x80 => .ok (.crdProc (cmdA w))
  | _ => .error (.illegalOpcode (cmdOp w))

/-- The command word of an instruction; a field it does not read is written 0 (R73, R75). -/
def encode : Instr → CmdWord
  | .nop => packCmd 0x00 0 0 0
  | .rdreg a => packCmd 0x01 0 a 0
  | .wrreg a b => packCmd 0x02 0 a b
  | .fxAdd a b => packCmd 0x10 0 a b
  | .fxSub a b => packCmd 0x11 0 a b
  | .fxMul f a b => packCmd 0x12 f a b
  | .fxDiv f a b => packCmd 0x13 f a b
  | .fxCmp a b => packCmd 0x14 0 a b
  | .fxCvt f a b => packCmd 0x15 f a b
  | .lfsrProc => packCmd 0x20 0 0 0
  | .phProc => packCmd 0x30 0 0 0
  | .phSetPeriod a b => packCmd 0x31 0 a b
  | .envProc => packCmd 0x40 0 0 0
  | .envStart => packCmd 0x41 0 0 0
  | .envStop => packCmd 0x42 0 0 0
  | .tgProc => packCmd 0x50 0 0 0
  | .tgReset => packCmd 0x51 0 0 0
  | .schProc a => packCmd 0x60 0 a 0
  | .tdProc a => packCmd 0x70 0 a 0
  | .crdProc a => packCmd 0x80 0 a 0

/-- The command word the opcode table numbers as `w` in `nbits` bits: the table numbers a row as one 80-bit
value, bit 79 first (R79), and every bit at or above `nbits` is 0 (DEDUCED, log entry 8). -/
def tableWord (nbits w : Nat) : CmdWord := BitVec.ofNat 80 (w % 2 ^ nbits)

/-- The instruction the decoder reads from a row's bits as the opcode table numbers them. -/
def decodeTableWord (nbits w : Nat) : Option Instr :=
  match decode (tableWord nbits w) with
  | .ok i => some i
  | .error _ => none

end Sys2Proof
end

