-- ==== Sys2Proof/Config.lean ====
section
/-! DEFINITION. The parameters of the build (rules R7 to R12): the fixed ones as constants, the open ones
(SAMPLE_RATE, DIV0) as the fields of `Config`. A `Config` is plain data, so that a state can carry the
configuration of its build and a claim about every state is a claim about every build (DESIGN CHOICE, log
entry 2; W and F_SIG fixed, log entry 4). -/

namespace Sys2Proof

/-- F_SIG, the fractional bits of the units' signal values (R8). -/
abbrev fSig : Nat := 28

/-- W, the storage width (R7). -/
abbrev wordBits : Nat := 32

/-- `ONE = 2^F_SIG`, the raw of 1.0 (R8). -/
abbrev one : Word := 0x10000000#32

/-- `wrap(-ONE)`, the raw of -1.0 (R43). -/
abbrev minusOne : Word := 0xF0000000#32

/-- `CTR_MAX = 2^31 - 1`, where the two sample counters saturate (R12, R161, R171). -/
abbrev ctrMax : Int := 2147483647

/-- One argument pair of DIV0 at which a build answers something other than 0 (R11, log entry 3). -/
structure Div0Entry where
  dividend : Word
  frac : Nat
  result : Word
  deriving DecidableEq, Repr

/-- The open parameters of one build (R9, R11).
`div0Table` lists the arguments at which DIV0 is not 0; the function itself is `div0`
(Machine/Arith.lean). -/
structure Config where
  /-- SAMPLE_RATE, ticks per second (R9). -/
  sampleRate : Nat
  /-- DIV0 as data: the result of a division by raw 0, where it is not 0 (R11). -/
  div0Table : List Div0Entry
  deriving DecidableEq, Repr

/-- The bounds the spec puts on SAMPLE_RATE: `1 <= SAMPLE_RATE <= 2^31 - 1` (R9). -/
abbrev Config.WF (c : Config) : Prop := 1 ≤ c.sampleRate ∧ c.sampleRate ≤ 2147483647

/-- The reference build: SAMPLE_RATE = 48000 (R9), DIV0 = 0 for all arguments (R11). -/
def Config.reference : Config := { sampleRate := 48000, div0Table := [] }

end Sys2Proof
end

