-- ==== Sys2Proof/Machine/State.lean ====
section
/-! DEFINITION. The state of the block as plain data: the 26 state registers grouped by unit (rules R20,
R21), the configuration of the build, the inputs still to come on the command port and the outputs of the
cycle just executed (rule R70), and the state after reset (rules R205, R206). -/

namespace Sys2Proof.Machine

/-- The LFSR unit's registers (R26 to R28). -/
structure Lfsr where
  /-- LFSR_VALUE. -/
  value : Word
  /-- LFSR_MASK. -/
  mask : Word
  /-- LFSR_BITS, 1 .. 32 in every reachable state. -/
  bits : BitVec 6
  deriving DecidableEq, Repr

/-- The Phasor unit's registers (R29, R30). -/
structure Phasor where
  /-- PH_PHASE. -/
  phase : Word
  /-- PH_DELTA. -/
  delta : Word
  deriving DecidableEq, Repr

/-- ENV_STATE's three values (R32). -/
inductive EnvState where
  | waiting | rising | falling
  deriving DecidableEq, Repr

/-- The ADEnv unit's registers (R31 to R35). -/
structure Envelope where
  /-- ENV_PHASE. -/
  phase : Word
  /-- ENV_STATE. -/
  state : EnvState
  /-- ENV_ATTACK. -/
  attack : Word
  /-- ENV_DECAY. -/
  decay : Word
  /-- ENV_HOLD, one bit. -/
  hold : Bool
  deriving DecidableEq, Repr

/-- The TrigGen unit's registers (R36 to R39). -/
structure TrigGen where
  /-- TG_COUNT. -/
  count : Word
  /-- TG_DELAY. -/
  delay : Word
  /-- TG_WIDTH. -/
  width : Word
  /-- TG_AMP. -/
  amp : Word
  deriving DecidableEq, Repr

/-- One comparator's registers: SCH_* (R40 to R43) and the copy TD owns (R44 to R47). -/
structure Schmidt where
  lo : Word
  hi : Word
  last : Word
  state : Word
  deriving DecidableEq, Repr

/-- The TrigDetector unit's registers: its own comparator and TD_LASTVAL (R44 to R48). -/
structure TrigDetector where
  /-- TD_LO, TD_HI, TD_LAST, TD_STATE. -/
  cmp : Schmidt
  /-- TD_LASTVAL. -/
  lastVal : Word
  deriving DecidableEq, Repr

/-- The ClockRateDetector unit's registers (R49, R50). -/
structure ClockRate where
  /-- CRD_COUNT. -/
  count : Word
  /-- CRD_INTERVAL. -/
  interval : Word
  deriving DecidableEq, Repr

/-- The port's inputs in one clock cycle: `rst`, `cmd_valid`, `cmd` (R70). -/
structure PortCycle where
  rst : Bool
  cmdValid : Bool
  cmd : CmdWord
  deriving DecidableEq, Repr

/-- `rsp_status`: three values, code 3 is never produced (R72). -/
inductive RspStatus where
  | ok | illegalOpcode | illegalOperand
  deriving DecidableEq, Repr

/-- The port's outputs in one clock cycle: `rsp_valid`, `rsp_status`, `rsp_data` (R70, R72). -/
structure Response where
  valid : Bool
  status : RspStatus
  data : Word
  deriving DecidableEq, Repr

/-- The outputs in a cycle that executes no command (R70, R205). -/
def Response.quiet : Response := { valid := false, status := .ok, data := 0#32 }

/-- The response of an executed command (R72). -/
def Response.okData (d : Word) : Response := { valid := true, status := .ok, data := d }

/-- The two errors of a refused command (R185). -/
inductive CmdError where
  /-- Code 1 (R186). -/
  | illegalOpcode
  /-- Code 2 (R187). -/
  | illegalOperand
  deriving DecidableEq, Repr

/-- The state of the block.
`cfg` is the build's configuration and no step changes it (log entry 2); `port` holds the inputs of the
clock cycles to come, first one next, and `rsp` the outputs of the cycle just executed (log entry 1). -/
structure State where
  cfg : Config
  /-- STATUS (R24). -/
  status : BitVec 3
  lfsr : Lfsr
  ph : Phasor
  env : Envelope
  tg : TrigGen
  sch : Schmidt
  td : TrigDetector
  crd : ClockRate
  port : List PortCycle
  rsp : Response
  deriving DecidableEq, Repr

/-- The comparator's reset values, the same for both copies (R40 to R47). -/
def Schmidt.reset : Schmidt :=
  { lo := 0x04000000#32, hi := 0x08000000#32, last := 0#32, state := 0#32 }

/-- The reset state of a build (R21, R205, R206): a constant depending on the configuration alone. -/
def State.resetFor (c : Config) : State :=
  { cfg := c
    status := 0#3
    lfsr := { value := 0#32, mask := 1#32, bits := 16#6 }
    ph := { phase := 0#32, delta := 0#32 }
    env := { phase := 0#32, state := .waiting, attack := 1#32, decay := 1#32, hold := false }
    tg := { count := 0x7FFFFFFF#32, delay := 0#32, width := 0#32, amp := 0#32 }
    sch := Schmidt.reset
    td := { cmp := Schmidt.reset, lastVal := 0#32 }
    crd := { count := 0#32, interval := BitVec.ofNat 32 c.sampleRate }
    port := []
    rsp := Response.quiet }

/-- The machine right after reset, at the reference parameters, with nothing presented at the port
(R206). -/
def State.reset : State := State.resetFor Config.reference

/-- Why a step stops with a fault. There is no reason: every command is a total step (R4), a refused
command included (R185), and nothing traps and nothing hangs (93_implementation_defined.md). The type has
no constructor, so that no step can fault (DEDUCED, log entry 12). -/
inductive Fault where
  deriving DecidableEq, Repr

/-- Why a step has no meaning. -/
inductive Refusal where
  /-- Raised by exec's arm of an instruction that has no meaning yet, with its mnemonic. Safe: the model
  stops where the hardware goes on. No arm raises it now. -/
  | notModelled (mnemonic : String)
  deriving DecidableEq, Repr

end Sys2Proof.Machine
end

