-- ==== Sys2Proof/Machine/Flags.lean ====
section
/-! DEFINITION. The block's flag computations: the STATUS register's two fields, the two status codes, and
the update of STATUS by a refused command (rules R24, R72, R185, R188). There are no other flags: no
arithmetic command writes any (R24). -/

namespace Sys2Proof.Machine

/-- `STATUS.ERR`, bit 0 (R24). -/
def statusErr (st : BitVec 3) : Bool := st.getLsbD 0

/-- `STATUS.FIRST_ERR`, bits 2:1 (R24). -/
def statusFirstErr (st : BitVec 3) : BitVec 2 := st.extractLsb' 1 2

/-- STATUS with the given fields (R24). -/
def packStatus (err : Bool) (firstErr : BitVec 2) : BitVec 3 := firstErr ++ BitVec.ofBool err

/-- The status code of an error (R72, R185). -/
def CmdError.code : CmdError → BitVec 2
  | .illegalOpcode => 1#2
  | .illegalOperand => 2#2

/-- The response status of an error (R72, R185). -/
def CmdError.rspStatus : CmdError → RspStatus
  | .illegalOpcode => .illegalOpcode
  | .illegalOperand => .illegalOperand

/-- The two bits `rsp_status` shows (R72). -/
def RspStatus.code : RspStatus → BitVec 2
  | .ok => 0#2
  | .illegalOpcode => 1#2
  | .illegalOperand => 2#2

/-- STATUS after a refused command: the first refusal since reset is recorded, a later one changes nothing
(R188). -/
def recordError (e : CmdError) (st : BitVec 3) : BitVec 3 :=
  if statusErr st then st else packStatus true e.code

end Sys2Proof.Machine
end

