-- ==== Sys2Proof/Machine/Arith.lean ====
section
/-! DEFINITION. The FixedPoint unit's functions (rules R90 to R96), the literal function (rule R17) with the
build constant DELTA_CONST_RAW (rule R10), parity (rule R15) and the saturating increment of the sample
counters (rules R161, R171). Operands are read as integers, the exact result is formed, and one `wrap` at
the end narrows it (R103). -/

namespace Sys2Proof.Machine

/-- `rnd(n / d)`: the nearest integer, a tie away from zero (R17). -/
def rndDiv (n : Int) (d : Nat) : Int := n.sign * (((2 * n.natAbs + d) / (2 * d) : Nat) : Int)

/-- `lit(F, num / den)`: the raw of a rational constant, rounded once (R17). -/
def lit (F : Nat) (num : Int) (den : Nat) : Word := wrap (rndDiv (num * 2 ^ F) den)

/-- `DELTA_CONST_RAW = lit(F_SIG, 0.2 / SAMPLE_RATE)`, the quotient exact before the one rounding (R10). -/
def deltaConstRaw (c : Config) : Word := lit fSig 2 (10 * c.sampleRate)

/-- `DIV0(a, F)`, the result of a division by raw 0: what the build's table lists, else 0 (R11). -/
def div0 (c : Config) (a : Word) (F : Nat) : Word :=
  match c.div0Table.find? (fun e => e.dividend == a && e.frac == F) with
  | some e => e.result
  | none => 0#32

/-- `fx_add` (R91). -/
def fxAdd (x y : Word) : Word := wrap (s32 x + s32 y)

/-- `fx_sub` (R91). -/
def fxSub (x y : Word) : Word := wrap (s32 x - s32 y)

/-- `fx_mul`: the exact product over 2^F, rounded toward minus infinity, then wrapped (R92). `Int` division
by a positive integer is the floor. -/
def fxMul (F : Nat) (x y : Word) : Word := wrap (s32 x * s32 y / 2 ^ F)

/-- `fx_div`: the exact scaled quotient rounded toward zero, then wrapped; DIV0 for divisor 0 (R93). -/
def fxDiv (c : Config) (F : Nat) (x y : Word) : Word :=
  if y = 0#32 then div0 c x F else wrap ((s32 x * 2 ^ F).tdiv (s32 y))

/-- `fx_cmp` as a pattern: -1, 0 or 1 by signed comparison (R94). -/
def fxCmp (x y : Word) : Word :=
  if s32 x < s32 y then wrap (-1) else if s32 x = s32 y then wrap 0 else wrap 1

/-- `fx_cvt`: up-conversion shifts left and wraps, down-conversion floors (R95). -/
def fxCvt (Ff Ft : Nat) (x : Word) : Word :=
  if Ff ≤ Ft then wrap (s32 x * 2 ^ (Ft - Ff)) else wrap (s32 x / 2 ^ (Ff - Ft))

/-- `imul(x, n) = fx_mul(0, x, n)`, scaling by an integer (R96). -/
def imul (x n : Word) : Word := fxMul 0 x n

/-- `idiv(x, n) = fx_div(0, x, n)`, division by an integer (R96). -/
def idiv (c : Config) (x n : Word) : Word := fxDiv c 0 x n

/-- The XOR of the low `n` bits of a pattern. -/
def parityUpTo (p : Word) : Nat → Bool
  | 0 => false
  | n + 1 => parityUpTo p n ^^ p.getLsbD n

/-- `parity(p)`, the XOR of all 32 bits (R15). -/
def parity (p : Word) : Bool := parityUpTo p 32

/-- The increment of a sample counter, which stops at CTR_MAX (R161, R171). -/
def satInc (x : Word) : Word := wrap (min (s32 x + 1) ctrMax)

/-- A bit as a 32-bit datum, 0 or 1. -/
def bitWord (b : Bool) : Word := (BitVec.ofBool b).setWidth 32

end Sys2Proof.Machine
end

