-- ==== Sys2Proof/Machine/Operands.lean ====
section
/-! DEFINITION. The operand forms: the register map that turns an index into a register (rules R21, R61),
each register's access and its read and write (rules R64, R177, R178), the legal fractional-bit counts
(rule R74) and CRD_PROC's one-bit operand (rule R172). -/

namespace Sys2Proof.Machine

/-- The 29 registers in the order of the map (R21). -/
def regAll : List Reg :=
  [.status, .config, .srate, .dconst, .lfsrValue, .lfsrMask, .lfsrBits, .phPhase, .phDelta,
   .envPhase, .envState, .envAttack, .envDecay, .envHold, .tgCount, .tgDelay, .tgWidth, .tgAmp,
   .schLo, .schHi, .schLast, .schState, .tdLo, .tdHi, .tdLast, .tdState, .tdLastVal,
   .crdCount, .crdInterval]

/-- A register's index (R21). -/
def regIdx : Reg → Word
  | .status => 0x00#32
  | .config => 0x01#32
  | .srate => 0x02#32
  | .dconst => 0x03#32
  | .lfsrValue => 0x10#32
  | .lfsrMask => 0x11#32
  | .lfsrBits => 0x12#32
  | .phPhase => 0x20#32
  | .phDelta => 0x21#32
  | .envPhase => 0x30#32
  | .envState => 0x31#32
  | .envAttack => 0x32#32
  | .envDecay => 0x33#32
  | .envHold => 0x34#32
  | .tgCount => 0x40#32
  | .tgDelay => 0x41#32
  | .tgWidth => 0x42#32
  | .tgAmp => 0x43#32
  | .schLo => 0x50#32
  | .schHi => 0x51#32
  | .schLast => 0x52#32
  | .schState => 0x53#32
  | .tdLo => 0x60#32
  | .tdHi => 0x61#32
  | .tdLast => 0x62#32
  | .tdState => 0x63#32
  | .tdLastVal => 0x64#32
  | .crdCount => 0x70#32
  | .crdInterval => 0x71#32

/-- The register an index names, `none` for an unmapped index (R61). -/
def regOfIdx (a : Word) : Option Reg := regAll.find? (fun r => regIdx r == a)

/-- A register's access (R21). -/
def regAccess : Reg → Access
  | .config => .const
  | .srate => .const
  | .dconst => .const
  | .lfsrValue => .rw
  | .lfsrMask => .rw
  | .lfsrBits => .rw
  | .envAttack => .rw
  | .envDecay => .rw
  | .envHold => .rw
  | .tgDelay => .rw
  | .tgWidth => .rw
  | .tgAmp => .rw
  | .schLo => .rw
  | .schHi => .rw
  | .tdLo => .rw
  | .tdHi => .rw
  | .status => .ro
  | .phPhase => .ro
  | .phDelta => .ro
  | .envPhase => .ro
  | .envState => .ro
  | .tgCount => .ro
  | .schLast => .ro
  | .schState => .ro
  | .tdLast => .ro
  | .tdState => .ro
  | .tdLastVal => .ro
  | .crdCount => .ro
  | .crdInterval => .ro

/-- The encoding of ENV_STATE (R32). -/
def envStateCode : EnvState → BitVec 2
  | .waiting => 0#2
  | .rising => 1#2
  | .falling => 2#2

/-- CONFIG: F_SIG in bits 4:0, W in bits 13:8 (R25). -/
def configWord : Word := BitVec.ofNat 32 (fSig + wordBits * 2 ^ 8)

/-- What RDREG returns for a register: its stored bits, zeros above a narrow one (R21, R177). -/
def readReg (r : Reg) (s : State) : Word :=
  match r with
  | .status => s.status.setWidth 32
  | .config => configWord
  | .srate => BitVec.ofNat 32 s.cfg.sampleRate
  | .dconst => deltaConstRaw s.cfg
  | .lfsrValue => s.lfsr.value
  | .lfsrMask => s.lfsr.mask
  | .lfsrBits => s.lfsr.bits.setWidth 32
  | .phPhase => s.ph.phase
  | .phDelta => s.ph.delta
  | .envPhase => s.env.phase
  | .envState => (envStateCode s.env.state).setWidth 32
  | .envAttack => s.env.attack
  | .envDecay => s.env.decay
  | .envHold => bitWord s.env.hold
  | .tgCount => s.tg.count
  | .tgDelay => s.tg.delay
  | .tgWidth => s.tg.width
  | .tgAmp => s.tg.amp
  | .schLo => s.sch.lo
  | .schHi => s.sch.hi
  | .schLast => s.sch.last
  | .schState => s.sch.state
  | .tdLo => s.td.cmp.lo
  | .tdHi => s.td.cmp.hi
  | .tdLast => s.td.cmp.last
  | .tdState => s.td.cmp.state
  | .tdLastVal => s.td.lastVal
  | .crdCount => s.crd.count
  | .crdInterval => s.crd.interval

/-- WRREG makes a range check on LFSR_BITS alone: 1 .. 32, unsigned (R28, R178). -/
def writeInRange (r : Reg) (v : Word) : Bool :=
  match r with
  | .lfsrBits => decide (1 ≤ u32 v) && decide (u32 v ≤ 32)
  | _ => true

/-- What WRREG stores in a writable register: all 32 bits, or the low bits of a narrow one (R64, R178).
DESIGN CHOICE: a register that is not writable is left alone; `execWrreg` refuses it before (log entry 11). -/
def writeReg (r : Reg) (v : Word) (s : State) : State :=
  match r with
  | .lfsrValue => { s with lfsr := { s.lfsr with value := v } }
  | .lfsrMask => { s with lfsr := { s.lfsr with mask := v } }
  | .lfsrBits => { s with lfsr := { s.lfsr with bits := v.setWidth 6 } }
  | .envAttack => { s with env := { s.env with attack := v } }
  | .envDecay => { s with env := { s.env with decay := v } }
  | .envHold => { s with env := { s.env with hold := v.getLsbD 0 } }
  | .tgDelay => { s with tg := { s.tg with delay := v } }
  | .tgWidth => { s with tg := { s.tg with width := v } }
  | .tgAmp => { s with tg := { s.tg with amp := v } }
  | .schLo => { s with sch := { s.sch with lo := v } }
  | .schHi => { s with sch := { s.sch with hi := v } }
  | .tdLo => { s with td := { s.td with cmp := { s.td.cmp with lo := v } } }
  | .tdHi => { s with td := { s.td with cmp := { s.td.cmp with hi := v } } }
  | .status => s
  | .config => s
  | .srate => s
  | .dconst => s
  | .phPhase => s
  | .phDelta => s
  | .envPhase => s
  | .envState => s
  | .tgCount => s
  | .schLast => s
  | .schState => s
  | .tdLast => s
  | .tdState => s
  | .tdLastVal => s
  | .crdCount => s
  | .crdInterval => s

/-- A legal fractional-bit count, 0 .. 31 (R74). -/
def formatLegal (f : Nat) : Bool := decide (f < 32)

/-- CRD_PROC's operand: bit 0 of `a` (R172). -/
def triggered (a : Word) : Bool := a.getLsbD 0

end Sys2Proof.Machine
end

