-- ==== Sys2Proof/Machine/Ops.lean ====
section
/-! DEFINITION. The operations the meanings share: the response of an executed command, the refusal of a
command (the block's one exception; there is no return from it, rules R185, R190, R191), the write of one
unit's registers, the comparator step both comparators use (rule R146), and what a clock cycle does at the
port beside executing a command (rules R70, R205). -/

namespace Sys2Proof.Machine

/-- What a meaning and a step answer. -/
abbrev Result := Host.Outcome State Fault Refusal

/-- The command is executed with status OK and this datum (R72). -/
def State.respond (d : Word) (s : State) : State := { s with rsp := Response.okData d }

/-- The command is refused: STATUS records the error if it is the first, the response carries the code and
datum 0, and no other register changes (R185, R188). Control goes nowhere (R190). -/
def State.refuse (e : CmdError) (s : State) : State :=
  { s with
    status := recordError e s.status
    rsp := { valid := true, status := e.rspStatus, data := 0#32 } }

/-- The LFSR unit's registers are replaced. -/
def State.setLfsr (u : Lfsr) (s : State) : State := { s with lfsr := u }

/-- The Phasor unit's registers are replaced. -/
def State.setPh (u : Phasor) (s : State) : State := { s with ph := u }

/-- The ADEnv unit's registers are replaced. -/
def State.setEnv (u : Envelope) (s : State) : State := { s with env := u }

/-- The TrigGen unit's registers are replaced. -/
def State.setTg (u : TrigGen) (s : State) : State := { s with tg := u }

/-- The stand-alone comparator's registers are replaced. -/
def State.setSch (u : Schmidt) (s : State) : State := { s with sch := u }

/-- The TrigDetector unit's registers are replaced. -/
def State.setTd (u : TrigDetector) (s : State) : State := { s with td := u }

/-- The ClockRateDetector unit's registers are replaced. -/
def State.setCrd (u : ClockRate) (s : State) : State := { s with crd := u }

/-- The command completes: status OK, this datum. -/
def complete (d : Word) (s : State) : Result := .next (s.respond d)

/-- The command is refused with ILLEGAL_OPERAND (R187). -/
def illegalOperand (s : State) : Result := .next (s.refuse .illegalOperand)

/-- A word that is not one of the 20 commands is refused with ILLEGAL_OPCODE (R186). -/
def refuseUndecoded (e : DecodeError) (s : State) : Result :=
  match e with
  | .illegalOpcode _ => .next (s.refuse .illegalOpcode)

/-- `schmidt_step` (R146): the two tests read `last` and the thresholds as they are before the step, a
later assignment to the level overrides an earlier one, and `last` is updated at every call. The source's
`magnitude` has no consumer and is omitted, as R146 allows (DESIGN CHOICE, log entry 6). -/
def schmidtStep (c : Schmidt) (x : Word) : Schmidt :=
  let pol : Word := if 0 < s32 x then one else minusOne
  let fired := if s32 c.last < s32 c.hi ∧ s32 c.hi < s32 x then pol else c.state
  let level := if s32 c.lo < s32 c.last ∧ s32 x < s32 c.lo then 0#32 else fired
  { c with last := x, state := level }

/-- What the inputs of the next clock cycle ask for (R70, R205). -/
inductive PortAction where
  /-- `rst = 0` and `cmd_valid = 0`. -/
  | idle
  /-- `rst = 1`, whatever the other inputs are. -/
  | reset
  /-- `rst = 0` and `cmd_valid = 1`. -/
  | command (w : CmdWord)
  deriving DecidableEq, Repr

/-- The next cycle's action: reset overrides a command, and with nothing more presented the port is idle
(R70, R205). -/
def State.portAction (s : State) : PortAction :=
  match s.port with
  | [] => .idle
  | c :: _ => if c.rst then .reset else if c.cmdValid then .command c.cmd else .idle

/-- The next cycle's inputs are consumed. -/
def State.takeCycle (s : State) : State := { s with port := s.port.tail }

/-- A cycle without a command: no register changes and the outputs are 0 (R70). -/
def State.idleCycle (s : State) : State := { s with rsp := Response.quiet }

/-- A cycle with `rst = 1`: every register takes its reset value, whatever it held, and the outputs are 0
(R205). -/
def State.resetCycle (s : State) : State := { State.resetFor s.cfg with port := s.port }

end Sys2Proof.Machine
end

