-- ==== Sys2Proof/Machine/ClockRate.lean ====
section
/-! DEFINITION. CRD_PROC (rule R172). -/

namespace Sys2Proof.Machine

/-- The unit's registers after one tick: a trigger records the count and clears it, without counting the
triggering call (R172). -/
def crdNext (trig : Bool) (u : ClockRate) : ClockRate :=
  if trig then { count := 0#32, interval := u.count } else { u with count := satInc u.count }

/-- CRD_PROC (R172): bits 31:1 of the operand are ignored. -/
def execCrdProc (a : Word) (s : State) : Result := complete 0#32 (s.setCrd (crdNext (triggered a) s.crd))

end Sys2Proof.Machine
end

