-- ==== Sys2Proof/Machine/Comparator.lean ====
section
/-! DEFINITION. SCH_PROC (rule R147) and TD_PROC (rule R156), each over its own copy of the comparator. -/

namespace Sys2Proof.Machine

/-- SCH_PROC (R147): the response is the level after the step. -/
def execSchProc (a : Word) (s : State) : Result :=
  let c := schmidtStep s.sch a
  complete c.state (s.setSch c)

/-- TD_PROC's answer: the level is strictly above the previous one (R156). -/
def tdRose (lastVal level : Word) : Bool := decide (s32 lastVal < s32 level)

/-- TD_PROC (R156). -/
def execTdProc (a : Word) (s : State) : Result :=
  let c := schmidtStep s.td.cmp a
  complete (bitWord (tdRose s.td.lastVal c.state)) (s.setTd { cmp := c, lastVal := c.state })

end Sys2Proof.Machine
end

