-- ==== Sys2Proof/Machine/Envelope.lean ====
section
/-! DEFINITION. ENV_PROC, ENV_START and ENV_STOP (rules R120 to R123). -/

namespace Sys2Proof.Machine

/-- `up`, computed afresh at every call (R123, R124). -/
def envUp (c : Config) (u : Envelope) : Word := imul (deltaConstRaw c) u.attack

/-- `down`, computed afresh at every call (R123, R124). -/
def envDown (c : Config) (u : Envelope) : Word := imul (deltaConstRaw c) u.decay

/-- The unit's registers after one advance (R123). -/
def envNext (c : Config) (u : Envelope) : Envelope :=
  match u.state with
  | .rising =>
    let p := fxAdd u.phase (envUp c u)
    if s32 one < s32 p then
      { u with phase := one, state := if u.hold then .rising else .falling }
    else { u with phase := p }
  | .falling =>
    let p := fxSub u.phase (envDown c u)
    if s32 p ≤ 0 then { u with phase := 0#32, state := .waiting } else { u with phase := p }
  | .waiting => u

/-- ENV_PROC (R123): the response is the phase before the update, in every state. -/
def execEnvProc (s : State) : Result := complete s.env.phase (s.setEnv (envNext s.cfg s.env))

/-- ENV_START (R121): RISING, and nothing else changes. -/
def execEnvStart (s : State) : Result := complete 0#32 (s.setEnv { s.env with state := .rising })

/-- ENV_STOP's effect on the state: RISING with hold becomes FALLING, anything else stays (R122). -/
def envStopped (u : Envelope) : EnvState :=
  if u.state = .rising ∧ u.hold = true then .falling else u.state

/-- ENV_STOP (R122): an ineffective stop is not an error. -/
def execEnvStop (s : State) : Result := complete 0#32 (s.setEnv { s.env with state := envStopped s.env })

end Sys2Proof.Machine
end

