-- ==== Sys2Proof/Machine/FixedPoint.lean ====
section
/-! DEFINITION. FX_ADD, FX_SUB, FX_MUL, FX_DIV, FX_CMP, FX_CVT (rules R97 to R102). None writes a register. -/

namespace Sys2Proof.Machine

/-- FX_ADD (R97). -/
def execFxAdd (a b : Word) (s : State) : Result := complete (fxAdd a b) s

/-- FX_SUB (R98). -/
def execFxSub (a b : Word) (s : State) : Result := complete (fxSub a b) s

/-- FX_MUL (R99): refused for a format above 31. -/
def execFxMul (f : BitVec 8) (a b : Word) (s : State) : Result :=
  if formatLegal f.toNat then complete (fxMul f.toNat a b) s else illegalOperand s

/-- FX_DIV (R100): refused for a format above 31; a zero divisor is no error. -/
def execFxDiv (f : BitVec 8) (a b : Word) (s : State) : Result :=
  if formatLegal f.toNat then complete (fxDiv s.cfg f.toNat a b) s else illegalOperand s

/-- FX_CMP (R101). -/
def execFxCmp (a b : Word) (s : State) : Result := complete (fxCmp a b) s

/-- FX_CVT (R102): refused for a source or destination format above 31. -/
def execFxCvt (f : BitVec 8) (a b : Word) (s : State) : Result :=
  if formatLegal f.toNat && formatLegal (u32 b) then complete (fxCvt f.toNat (u32 b) a) s
  else illegalOperand s

end Sys2Proof.Machine
end

