-- ==== Sys2Proof/Machine/Lfsr.lean ====
section
/-! DEFINITION. LFSR_PROC (rule R136). -/

namespace Sys2Proof.Machine

/-- The inverted feedback bit: 1 when the taps of the value before the shift have even parity (R136). -/
def lfsrFeedback (u : Lfsr) : Bool := !parity (u.value &&& u.mask)

/-- The shift: a logical shift of all 32 bits, with bit `LFSR_BITS - 1` then replaced by the feedback bit
(R136). DEDUCED: an LFSR_BITS outside 1 .. 32, which no run reaches, is read modulo 2^6 (log entry 5). -/
def lfsrNext (u : Lfsr) : Word :=
  let top := (u.bits - 1#6).toNat
  let shifted := u.value >>> 1
  (shifted &&& ~~~(1#32 <<< top)) ||| (bitWord (lfsrFeedback u) <<< top)

/-- LFSR_PROC (R136). -/
def execLfsrProc (s : State) : Result :=
  complete (bitWord (lfsrFeedback s.lfsr)) (s.setLfsr { s.lfsr with value := lfsrNext s.lfsr })

end Sys2Proof.Machine
end

