-- ==== Sys2Proof/Machine/Phasor.lean ====
section
/-! DEFINITION. PH_PROC and PH_SETPERIOD (rules R111, R112). -/

namespace Sys2Proof.Machine

/-- The phase after one advance: one subtraction of 1.0 if the sum is strictly above 1.0 (R112). -/
def phaseNext (u : Phasor) : Word :=
  let p1 := fxAdd u.phase u.delta
  if s32 one < s32 p1 then fxSub p1 one else p1

/-- PH_PROC (R112): the response is the phase before the advance. -/
def execPhProc (s : State) : Result :=
  complete s.ph.phase (s.setPh { s.ph with phase := phaseNext s.ph })

/-- The increment of a period: the truncated reciprocal first, then the multiplication (R111). -/
def periodDelta (c : Config) (samples multiplier : Word) : Word :=
  imul (idiv c one samples) multiplier

/-- PH_SETPERIOD (R111). -/
def execPhSetPeriod (a b : Word) (s : State) : Result :=
  complete 0#32 (s.setPh { s.ph with delta := periodDelta s.cfg a b })

end Sys2Proof.Machine
end

