-- ==== Sys2Proof/Machine/System.lean ====
section
/-! DEFINITION. NOP, RDREG and WRREG (rules R176 to R178). -/

namespace Sys2Proof.Machine

/-- NOP (R176). -/
def execNop (s : State) : Result := complete 0#32 s

/-- RDREG (R177): refused for an unmapped index; no register changes by a read. -/
def execRdreg (a : Word) (s : State) : Result :=
  match regOfIdx a with
  | none => illegalOperand s
  | some r => complete (readReg r s) s

/-- WRREG (R178): the checks in the order of R189, then the write of the one register. -/
def execWrreg (a b : Word) (s : State) : Result :=
  match regOfIdx a with
  | none => illegalOperand s
  | some r =>
    match regAccess r with
    | .ro => illegalOperand s
    | .const => illegalOperand s
    | .rw => if writeInRange r b then complete 0#32 (writeReg r b s) else illegalOperand s

end Sys2Proof.Machine
end

