-- ==== Sys2Proof/Machine/TrigGen.lean ====
section
/-! DEFINITION. TG_PROC and TG_RESET (rules R161 to R163). -/

namespace Sys2Proof.Machine

/-- The level for a counter value: `TG_AMP` strictly inside the window, whose upper bound is the exact sum
`delay + width` (R163). -/
def tgLevel (u : TrigGen) (count : Word) : Word :=
  if s32 u.delay < s32 count ∧ s32 count < s32 u.delay + s32 u.width then u.amp else 0#32

/-- TG_PROC (R163): the comparison is made with the counter after the increment. -/
def execTgProc (s : State) : Result :=
  let c := satInc s.tg.count
  complete (tgLevel s.tg c) (s.setTg { s.tg with count := c })

/-- TG_RESET (R162): the counter becomes -1. -/
def execTgReset (s : State) : Result := complete 0#32 (s.setTg { s.tg with count := wrap (-1) })

end Sys2Proof.Machine
end

