-- ==== Sys2Proof/Machine/Dispatch.lean ====
section
/-! DEFINITION. One arm per command (rule R75). -/

namespace Sys2Proof.Machine

def exec (i : Instr) (s : State) : Host.Outcome State Fault Refusal :=
  match i with
  | .nop => Sys2Proof.Machine.execNop s
  | .rdreg a => Sys2Proof.Machine.execRdreg a s
  | .wrreg a b => Sys2Proof.Machine.execWrreg a b s
  | .fxAdd a b => Sys2Proof.Machine.execFxAdd a b s
  | .fxSub a b => Sys2Proof.Machine.execFxSub a b s
  | .fxMul f a b => Sys2Proof.Machine.execFxMul f a b s
  | .fxDiv f a b => Sys2Proof.Machine.execFxDiv f a b s
  | .fxCmp a b => Sys2Proof.Machine.execFxCmp a b s
  | .fxCvt f a b => Sys2Proof.Machine.execFxCvt f a b s
  | .lfsrProc => Sys2Proof.Machine.execLfsrProc s
  | .phProc => Sys2Proof.Machine.execPhProc s
  | .phSetPeriod a b => Sys2Proof.Machine.execPhSetPeriod a b s
  | .envProc => Sys2Proof.Machine.execEnvProc s
  | .envStart => Sys2Proof.Machine.execEnvStart s
  | .envStop => Sys2Proof.Machine.execEnvStop s
  | .tgProc => Sys2Proof.Machine.execTgProc s
  | .tgReset => Sys2Proof.Machine.execTgReset s
  | .schProc a => Sys2Proof.Machine.execSchProc a s
  | .tdProc a => Sys2Proof.Machine.execTdProc a s
  | .crdProc a => Sys2Proof.Machine.execCrdProc a s

end Sys2Proof.Machine
end

