-- ==== Sys2Proof/Machine/Step.lean ====
section
/-! DEFINITION. One step is one clock cycle of the command port (rules R4, R70, R205): the machine has no
program counter and fetches nothing (rule R23); the command it executes is the one the host presents in
that cycle (DESIGN CHOICE, log entries 1 and 10). -/

namespace Sys2Proof.Machine

/-- One command word: the decoded command is executed, an undecodable word is refused (R4, R76). -/
def runCommand (w : CmdWord) (s : State) : Host.Outcome State Fault Refusal :=
  match decode w with
  | .ok i => exec i s
  | .error e => refuseUndecoded e s

/-- One clock cycle: consume its inputs, then be idle, reset, or execute the command (R70, R205). -/
def step (s : State) : Host.Outcome State Fault Refusal :=
  match s.portAction with
  | .idle => .next s.takeCycle.idleCycle
  | .reset => .next s.takeCycle.resetCycle
  | .command w => runCommand w s.takeCycle

/-- The state whose next clock cycle presents this command (log entry 1): the next cycle's inputs become
`rst = 0`, `cmd_valid = 1` and the word, and nothing else changes. -/
def State.withFetchWord (s : State) (nbits w : Nat) : State :=
  { s with port := { rst := false, cmdValid := true, cmd := tableWord nbits w } :: s.port.tail }

end Sys2Proof.Machine
end

