-- ==== Sys2Proof/Machine/Pseudo.lean ====
section
/-! DEFINITION. The pseudo-instructions of the notation and their expansions (rule R81). None adds
behaviour: each is the list of commands it stands for, in order (DESIGN CHOICE, log entry 14). -/

namespace Sys2Proof.Machine

/-- WRREG of a register by name. -/
def wr (r : Reg) (v : Word) : Instr := .wrreg (regIdx r) v

/-- The commands a pseudo-instruction stands for (R81). -/
def expandPseudo : Pseudo → List Instr
  | .fxFromInt f n => [.fxCvt 0#8 n (f.setWidth 32)]
  | .fxToInt f x => [.fxCvt f x 0#32]
  | .lfsrConfig bits mask seed => [wr .lfsrBits bits, wr .lfsrMask mask, wr .lfsrValue seed]
  | .envConfig attack decay hold => [wr .envAttack attack, wr .envDecay decay, wr .envHold hold]
  | .tgConfig delay width amp => [wr .tgDelay delay, wr .tgWidth width, wr .tgAmp amp]
  | .schConfig lo hi => [wr .schLo lo, wr .schHi hi]
  | .tdConfig lo hi => [wr .tdLo lo, wr .tdHi hi]
  | .crdTrig => [.crdProc 1#32]
  | .crdTick => [.crdProc 0#32]

end Sys2Proof.Machine
end

