-- ==== Sys2Proof/Safety.lean ====
section
/-! DEFINITION. The terms claims are stated in: the invariant of every reachable state (rule R53), which
command may change which register (rule R21), which unit a command belongs to (rule R2), the block as the
function `State × Command → State × Response` and a program's observation (rules R4, R19, R67), and a
command repeated. -/

namespace Sys2Proof.Machine

/-- The three values a comparator level can hold (R43, R47, R53). -/
abbrev LevelOk (w : Word) : Prop := w = 0#32 ∨ w = one ∨ w = minusOne

/-- The three values STATUS can hold (R53, R188). -/
abbrev StatusOk (st : BitVec 3) : Prop := st = 0#3 ∨ st = 3#3 ∨ st = 5#3

/-- The invariant of every state reachable from reset by any sequence of commands (R53). ENV_STATE and
ENV_HOLD hold no other value by their types. `cfg` is the parameters' own bound (R9). -/
structure State.Inv (s : State) : Prop where
  cfg : s.cfg.WF
  status : StatusOk s.status
  lfsrBits : 1 ≤ s.lfsr.bits.toNat ∧ s.lfsr.bits.toNat ≤ 32
  tgCount : -1 ≤ s32 s.tg.count
  schState : LevelOk s.sch.state
  tdState : LevelOk s.td.cmp.state
  tdLastVal : s.td.lastVal = s.td.cmp.state
  crdCount : 0 ≤ s32 s.crd.count
  crdInterval : 0 ≤ s32 s.crd.interval

/-- ENV_PHASE is in [0, 1.0], and is 0 in WAITING (R128). -/
abbrev State.EnvInRange (s : State) : Prop :=
  0 ≤ s32 s.env.phase ∧ s32 s.env.phase ≤ s32 one ∧ (s.env.state = .waiting → s.env.phase = 0#32)

/-- The command is a WRREG of this index. -/
def isWriteOf (idx : Nat) : Instr → Bool
  | .wrreg a _ => a.toNat == idx
  | _ => false

/-- The "written by" column of the register map (R21): the command can change the register. -/
def mayWrite (i : Instr) : Reg → Bool
  | .status => !i.wellFormed
  | .config => false
  | .srate => false
  | .dconst => false
  | .lfsrValue => i == .lfsrProc || isWriteOf 0x10 i
  | .lfsrMask => isWriteOf 0x11 i
  | .lfsrBits => isWriteOf 0x12 i
  | .phPhase => i == .phProc
  | .phDelta => match i with
    | .phSetPeriod _ _ => true
    | _ => false
  | .envPhase => i == .envProc
  | .envState => i == .envProc || i == .envStart || i == .envStop
  | .envAttack => isWriteOf 0x32 i
  | .envDecay => isWriteOf 0x33 i
  | .envHold => isWriteOf 0x34 i
  | .tgCount => i == .tgProc || i == .tgReset
  | .tgDelay => isWriteOf 0x41 i
  | .tgWidth => isWriteOf 0x42 i
  | .tgAmp => isWriteOf 0x43 i
  | .schLo => isWriteOf 0x50 i
  | .schHi => isWriteOf 0x51 i
  | .schLast => match i with
    | .schProc _ => true
    | _ => false
  | .schState => match i with
    | .schProc _ => true
    | _ => false
  | .tdLo => isWriteOf 0x60 i
  | .tdHi => isWriteOf 0x61 i
  | .tdLast => match i with
    | .tdProc _ => true
    | _ => false
  | .tdState => match i with
    | .tdProc _ => true
    | _ => false
  | .tdLastVal => match i with
    | .tdProc _ => true
    | _ => false
  | .crdCount => match i with
    | .crdProc _ => true
    | _ => false
  | .crdInterval => match i with
    | .crdProc _ => true
    | _ => false

/-- The units of the block and the system group (R2, R75). -/
inductive HwUnit where
  | system | fixedPoint | lfsr | phasor | envelope | trigGen | schmidt | trigDetector | clockRate
  deriving DecidableEq, Repr

/-- The unit a command belongs to, the high nibble of its opcode (R75). -/
def unitOf : Instr → HwUnit
  | .nop => .system
  | .rdreg _ => .system
  | .wrreg _ _ => .system
  | .fxAdd _ _ => .fixedPoint
  | .fxSub _ _ => .fixedPoint
  | .fxMul _ _ _ => .fixedPoint
  | .fxDiv _ _ _ => .fixedPoint
  | .fxCmp _ _ => .fixedPoint
  | .fxCvt _ _ _ => .fixedPoint
  | .lfsrProc => .lfsr
  | .phProc => .phasor
  | .phSetPeriod _ _ => .phasor
  | .envProc => .envelope
  | .envStart => .envelope
  | .envStop => .envelope
  | .tgProc => .trigGen
  | .tgReset => .trigGen
  | .schProc _ => .schmidt
  | .tdProc _ => .trigDetector
  | .crdProc _ => .clockRate

/-- The state after one instruction (the state itself if it answered no next state). -/
def after (i : Instr) (s : State) : State :=
  match exec i s with
  | .next t => t
  | .fault _ => s
  | .refused _ => s

/-- The state after an instruction issued `n` times. -/
def afterN (i : Instr) : Nat → State → State
  | 0, s => s
  | n + 1, s => after i (afterN i n s)

/-- The state after a list of instructions, first one first. -/
def afterAll : List Instr → State → State
  | [], s => s
  | i :: is, s => afterAll is (after i s)

/-- The step function of R4 on a command word: the next state and the response. -/
def commandStep (w : CmdWord) (s : State) : State × Response :=
  match runCommand w s with
  | .next t => (t, t.rsp)
  | .fault _ => (s, Response.quiet)
  | .refused _ => (s, Response.quiet)

/-- A program is a finite list of commands and its observation the list of responses (R19, R67). -/
def runCommands : List CmdWord → State → State × List Response
  | [], s => (s, [])
  | w :: ws, s =>
    let r := commandStep w s
    let rest := runCommands ws r.1
    (rest.1, r.2 :: rest.2)

/-- A clock cycle that presents a command (R70). -/
def presents (w : CmdWord) : PortCycle := { rst := false, cmdValid := true, cmd := w }

end Sys2Proof.Machine
end

