-- ==== Sys2Proof/Certificates/Slice0/Obligations.lean ====
section
/-! DEFINITION. The statements for the provers. Each docstring names the rule of the spec it formalises or
the sections it rests on. -/

open Sys2Proof Sys2Proof.Machine

/-- O1. The command word's four fields stand at their bits, and a word is its four fields (states R71). -/
def Obligations.CommandWordHasFourFixedFields : Prop :=
  (∀ w : CmdWord,
    (∀ i, i < 8 → (cmdOp w).getLsbD i = w.getLsbD (72 + i)) ∧
    (∀ i, i < 8 → (cmdF w).getLsbD i = w.getLsbD (64 + i)) ∧
    (∀ i, i < 32 → (cmdA w).getLsbD i = w.getLsbD (32 + i)) ∧
    (∀ i, i < 32 → (cmdB w).getLsbD i = w.getLsbD i) ∧
    packCmd (cmdOp w) (cmdF w) (cmdA w) (cmdB w) = w) ∧
  (∀ (op f : BitVec 8) (a b : Word),
    cmdOp (packCmd op f a b) = op ∧ cmdF (packCmd op f a b) = f ∧
    cmdA (packCmd op f a b) = a ∧ cmdB (packCmd op f a b) = b)

/-- O2. Each of the 20 opcodes selects its command with the fields it reads, whatever the other fields hold (states R75, R73, R78). -/
def Obligations.OpcodeMapSelectsEachCommand : Prop :=
  ∀ (f : BitVec 8) (a b : Word),
    decode (packCmd 0x00#8 f a b) = .ok .nop ∧
    decode (packCmd 0x01#8 f a b) = .ok (.rdreg a) ∧
    decode (packCmd 0x02#8 f a b) = .ok (.wrreg a b) ∧
    decode (packCmd 0x10#8 f a b) = .ok (.fxAdd a b) ∧
    decode (packCmd 0x11#8 f a b) = .ok (.fxSub a b) ∧
    decode (packCmd 0x12#8 f a b) = .ok (.fxMul f a b) ∧
    decode (packCmd 0x13#8 f a b) = .ok (.fxDiv f a b) ∧
    decode (packCmd 0x14#8 f a b) = .ok (.fxCmp a b) ∧
    decode (packCmd 0x15#8 f a b) = .ok (.fxCvt f a b) ∧
    decode (packCmd 0x20#8 f a b) = .ok .lfsrProc ∧
    decode (packCmd 0x30#8 f a b) = .ok .phProc ∧
    decode (packCmd 0x31#8 f a b) = .ok (.phSetPeriod a b) ∧
    decode (packCmd 0x40#8 f a b) = .ok .envProc ∧
    decode (packCmd 0x41#8 f a b) = .ok .envStart ∧
    decode (packCmd 0x42#8 f a b) = .ok .envStop ∧
    decode (packCmd 0x50#8 f a b) = .ok .tgProc ∧
    decode (packCmd 0x51#8 f a b) = .ok .tgReset ∧
    decode (packCmd 0x60#8 f a b) = .ok (.schProc a) ∧
    decode (packCmd 0x70#8 f a b) = .ok (.tdProc a) ∧
    decode (packCmd 0x80#8 f a b) = .ok (.crdProc a) ∧
    decode 0#80 = .ok .nop

/-- O3. A word decodes exactly when its opcode is one of the 20; the other 236 are illegal opcodes (states R76). -/
def Obligations.UnusedOpcodesAreIllegal : Prop :=
  let opcodes : List Nat :=
    [0x00, 0x01, 0x02, 0x10, 0x11, 0x12, 0x13, 0x14, 0x15, 0x20, 0x30, 0x31, 0x40, 0x41, 0x42,
      0x50, 0x51, 0x60, 0x70, 0x80]
  (∀ w : CmdWord,
    ((cmdOp w).toNat ∈ opcodes → ∃ i, decode w = .ok i) ∧
    ((cmdOp w).toNat ∉ opcodes → decode w = .error (.illegalOpcode (cmdOp w)))) ∧
  ((List.range 256).filter (fun n => !opcodes.contains n)).length = 236

/-- O4. Decoding the encoding of any instruction gives it back (rests on 30_encoding.md section 2 (R71, R73), 30_encoding.md section 3 (R75)). -/
def Obligations.DecodeOfEncodeIsTheInstruction : Prop :=
  ∀ i : Instr, decode (encode i) = .ok i

/-- O5. Two words that agree on op and on the fields the command's shape reads behave alike (states R73). -/
def Obligations.UnreadFieldsHaveNoEffect : Prop :=
  ∀ w v : CmdWord, cmdOp w = cmdOp v →
    ((cmdOp w).toNat ∈ [0x12, 0x13, 0x15] → cmdF w = cmdF v) →
    ((cmdOp w).toNat ∈ [0x01, 0x02, 0x10, 0x11, 0x12, 0x13, 0x14, 0x15, 0x31, 0x60, 0x70, 0x80] →
      cmdA w = cmdA v) →
    ((cmdOp w).toNat ∈ [0x02, 0x10, 0x11, 0x12, 0x13, 0x14, 0x15, 0x31] → cmdB w = cmdB v) →
    decode w = decode v ∧ ∀ s : State, runCommand w s = runCommand v s

/-- O6. Encoding a decoded word gives its op, the fields read, and 0 in the fields not read (rests on 30_encoding.md section 2 (R73), 30_encoding.md section 3 (R75)). -/
def Obligations.EncodeOfDecodedKeepsTheFieldsRead : Prop :=
  ∀ (w : CmdWord) (i : Instr), decode w = .ok i →
    encode i = packCmd (cmdOp w)
      (if (cmdOp w).toNat ∈ [0x12, 0x13, 0x15] then cmdF w else 0#8)
      (if (cmdOp w).toNat ∈ [0x01, 0x02, 0x10, 0x11, 0x12, 0x13, 0x14, 0x15, 0x31, 0x60, 0x70, 0x80]
        then cmdA w else 0#32)
      (if (cmdOp w).toNat ∈ [0x02, 0x10, 0x11, 0x12, 0x13, 0x14, 0x15, 0x31] then cmdB w else 0#32)

/-- O7. Words the spec writes out decode to the commands it names (rests on 30_encoding.md section 4 (R80), 95_test_vectors.md section 2). -/
def Obligations.WordsOfTheSpecDecodeRight : Prop :=
  decode 0x121C1800000008000000#80 = .ok (.fxMul 28#8 0x18000000#32 0x08000000#32) ∧
  decode 0x02000000004100000002#80 = .ok (.wrreg 0x41#32 2#32) ∧
  decode 0x20000000000000000000#80 = .ok .lfsrProc ∧
  decode 0x31000000000300000001#80 = .ok (.phSetPeriod 3#32 1#32) ∧
  decode 0x41000000000000000000#80 = .ok .envStart ∧
  decode 0x51000000000000000000#80 = .ok .tgReset ∧
  decode 0x600003FFFFFF00000000#80 = .ok (.schProc 0x03FFFFFF#32) ∧
  decode 0x7000F000000000000000#80 = .ok (.tdProc 0xF0000000#32) ∧
  decode 0x8000FFFFFFFE00000000#80 = .ok (.crdProc 0xFFFFFFFE#32)

/-- O8. A cycle with rst = 0 and cmd_valid = 1 is exec of the decoded command (rests on 30_encoding.md section 1 (R70), 00_scope.md section 2 (R4)).
The port's list of inputs to come and the response field are the model's own (log entry 1). -/
def Obligations.StepRunsTheDecodedCommand : Prop :=
  ∀ (s : State) (c : PortCycle) (rest : List PortCycle) (i : Instr),
    s.port = c :: rest → c.rst = false → c.cmdValid = true → decode c.cmd = .ok i →
    step s = exec i { s with port := rest }

/-- O9. A cycle with rst = 0 and cmd_valid = 0 changes no register and shows zero outputs (rests on 30_encoding.md section 1 (R70), 60_exceptions.md section 3 (R199)).
The port's list of inputs to come and the response field are the model's own (log entry 1). -/
def Obligations.CycleWithoutCommandHoldsTheState : Prop :=
  ∀ s : State,
    (s.port = [] → step s = .next { s with port := [], rsp := ⟨false, .ok, 0#32⟩ }) ∧
    (∀ (c : PortCycle) (rest : List PortCycle),
      s.port = c :: rest → c.rst = false → c.cmdValid = false →
      step s = .next { s with port := rest, rsp := ⟨false, .ok, 0#32⟩ })

/-- O10. A cycle with rst = 1 puts every register to its reset value, whatever it held and whatever command is presented (states R205).
The port's list of inputs to come and the response field are the model's own (log entry 1). -/
def Obligations.ResetCycleGivesTheResetState : Prop :=
  ∀ (s : State) (c : PortCycle) (rest : List PortCycle), s.port = c :: rest → c.rst = true →
    step s = .next
      { cfg := s.cfg
        status := 0#3
        lfsr := { value := 0#32, mask := 1#32, bits := 16#6 }
        ph := { phase := 0#32, delta := 0#32 }
        env := { phase := 0#32, state := .waiting, attack := 1#32, decay := 1#32, hold := false }
        tg := { count := 0x7FFFFFFF#32, delay := 0#32, width := 0#32, amp := 0#32 }
        sch := { lo := 0x04000000#32, hi := 0x08000000#32, last := 0#32, state := 0#32 }
        td := { cmp := { lo := 0x04000000#32, hi := 0x08000000#32, last := 0#32, state := 0#32 },
                lastVal := 0#32 }
        crd := { count := 0#32, interval := BitVec.ofNat 32 s.cfg.sampleRate }
        port := rest
        rsp := ⟨false, .ok, 0#32⟩ }

/-- O11. The machine right after reset holds the collected reset values (rests on 70_reset_and_hazards.md section 1 (R206), 10_state.md section 1 (R21)).
The fields cfg, port and rsp and their values here are the model's own (log entries 1 and 2). -/
def Obligations.ResetStateIsTheRegisterMaps : Prop :=
  State.reset =
      { cfg := Config.reference
        status := 0#3
        lfsr := { value := 0#32, mask := 1#32, bits := 16#6 }
        ph := { phase := 0#32, delta := 0#32 }
        env := { phase := 0#32, state := .waiting, attack := 1#32, decay := 1#32, hold := false }
        tg := { count := 0x7FFFFFFF#32, delay := 0#32, width := 0#32, amp := 0#32 }
        sch := { lo := 0x04000000#32, hi := 0x08000000#32, last := 0#32, state := 0#32 }
        td := { cmp := { lo := 0x04000000#32, hi := 0x08000000#32, last := 0#32, state := 0#32 },
                lastVal := 0#32 }
        crd := { count := 0#32, interval := 0xBB80#32 }
        port := []
        rsp := ⟨false, .ok, 0#32⟩ } ∧
  Config.reference.sampleRate = 48000

/-- O12. Every command word from every state has a next state and a response, functions of the state's registers and the word alone (states R4).
The port and response fields of the state are the model's own (log entry 1). -/
def Obligations.EveryCommandIsATotalStep : Prop :=
  (∀ s : State, ∃ t, step s = .next t) ∧
  (∀ (w : CmdWord) (s : State), ∃ t, runCommand w s = .next t) ∧
  (∀ (w : CmdWord) (s : State) (p : List PortCycle) (r : Response),
    commandStep w { s with port := p, rsp := r } =
      ({ (commandStep w s).1 with port := p }, (commandStep w s).2)) ∧
  (∀ (w : CmdWord) (s : State), (commandStep w s).2.status ≠ .ok →
    (commandStep w s).1 =
      { s with status := (commandStep w s).1.status, rsp := (commandStep w s).2 })

/-- O13. Presenting a list of commands at the port, one a cycle, is the fold of the step function over the list (states R67).
The port's list of inputs to come and the response field are the model's own (log entry 1). -/
def Obligations.PortRefinesTheCommandFunction : Prop :=
  (∀ (ws : List CmdWord) (s : State),
    Host.Core.run Sys2Proof.core ws.length { s with port := ws.map presents } =
      .next { (runCommands ws s).1 with port := [] }) ∧
  (∀ (ws vs : List CmdWord) (s : State),
    runCommands (ws ++ vs) s =
      ((runCommands vs (runCommands ws s).1).1,
        (runCommands ws s).2 ++ (runCommands vs (runCommands ws s).1).2))

/-- O14. A refused command responds with its error code and datum 0, and changes only STATUS (states R185, R186). -/
def Obligations.RefusedCommandsChangeOnlyStatus : Prop :=
  (∀ (i : Instr) (s : State), i.wellFormed = false →
    exec i s = .next
      { s with
        status := if s.status.getLsbD 0 then s.status else 5#3
        rsp := ⟨true, .illegalOperand, 0#32⟩ }) ∧
  (∀ (w : CmdWord) (e : DecodeError) (s : State), decode w = .error e →
    runCommand w s = .next
      { s with
        status := if s.status.getLsbD 0 then s.status else 3#3
        rsp := ⟨true, .illegalOpcode, 0#32⟩ })

/-- O15. A command is executed exactly when its operands are legal, and an executed command leaves STATUS alone (states R77, R187). -/
def Obligations.OnlyIllegalOperandsAreRefused : Prop :=
  (∀ (i : Instr) (s : State), ∃ t, exec i s = .next t ∧ t.rsp.valid = true ∧
    (i.wellFormed = true → t.rsp.status = .ok ∧ t.status = s.status) ∧
    (i.wellFormed = false → t.rsp.status = .illegalOperand)) ∧
  (∀ (f : BitVec 8) (a b : Word),
    ((Instr.fxMul f a b).wellFormed = true ↔ f.toNat < 32) ∧
    ((Instr.fxDiv f a b).wellFormed = true ↔ f.toNat < 32) ∧
    ((Instr.fxCvt f a b).wellFormed = true ↔ f.toNat < 32 ∧ b.toNat < 32) ∧
    ((Instr.rdreg a).wellFormed = true ↔ ∃ r : Reg, regIdx r = a) ∧
    ((Instr.wrreg a b).wellFormed = true ↔
      ∃ r : Reg, regIdx r = a ∧ regAccess r = .rw ∧
        (r = .lfsrBits → 1 ≤ b.toNat ∧ b.toNat ≤ 32))) ∧
  (∀ i : Instr, i.wellFormed = false →
    ∃ (f : BitVec 8) (a b : Word),
      i = .fxMul f a b ∨ i = .fxDiv f a b ∨ i = .fxCvt f a b ∨ i = .rdreg a ∨ i = .wrreg a b)

/-- O16. Once an error is recorded, STATUS does not change until reset (states R188). -/
def Obligations.StatusKeepsTheFirstError : Prop :=
  (∀ s t : State, s.status.getLsbD 0 = true → s.portAction ≠ .reset → step s = .next t →
    t.status = s.status) ∧
  (∀ (w : CmdWord) (s t : State), s.status.getLsbD 0 = false → runCommand w s = .next t →
    (t.rsp.status = .illegalOpcode → t.status = 3#3) ∧
    (t.rsp.status = .illegalOperand → t.status = 5#3) ∧
    (t.rsp.status = .ok → t.status = s.status)) ∧
  (∀ s t : State, StatusOk s.status → step s = .next t → StatusOk t.status)

/-- O17. FX_ADD and FX_SUB return the 32-bit sum and difference and change no register (states R97, R98, R91). -/
def Obligations.FxAddAndFxSubWrap : Prop :=
  (∀ (f : BitVec 8) (a b : Word), decode (packCmd 0x10#8 f a b) = .ok (.fxAdd a b)) ∧
  (∀ (a b : Word) (s : State), exec (.fxAdd a b) s = .next { s with rsp := ⟨true, .ok, a + b⟩ }) ∧
  (∀ (f : BitVec 8) (a b : Word), decode (packCmd 0x11#8 f a b) = .ok (.fxSub a b)) ∧
  (∀ (a b : Word) (s : State), exec (.fxSub a b) s = .next { s with rsp := ⟨true, .ok, a - b⟩ }) ∧
  (∀ x y : Word, (fxAdd x y).toInt = (x.toInt + y.toInt).bmod (2 ^ 32) ∧
    (fxSub x y).toInt = (x.toInt - y.toInt).bmod (2 ^ 32))

/-- O18. FX_MUL returns the low 32 bits of the 64-bit product shifted right arithmetically by F (states R99, R92). -/
def Obligations.FxMulIsTheShiftedDoubleWidthProduct : Prop :=
  (∀ (f : BitVec 8) (a b : Word), decode (packCmd 0x12#8 f a b) = .ok (.fxMul f a b)) ∧
  (∀ (f : BitVec 8) (a b : Word) (s : State), f.toNat < 32 →
    exec (.fxMul f a b) s = .next
      { s with rsp := ⟨true, .ok,
          ((a.signExtend 64 * b.signExtend 64).sshiftRight f.toNat).setWidth 32⟩ }) ∧
  (∀ (f : BitVec 8) (a b : Word) (s : State), 32 ≤ f.toNat →
    ∃ t, exec (.fxMul f a b) s = .next t ∧ t.rsp = ⟨true, .illegalOperand, 0#32⟩)

/-- O19. FX_MUL commutes and has 1.0 as its unit; negating either operand of a division negates the quotient (rests on 40_fixed_point.md section 2 (R99), 40_fixed_point.md section 3 (R103)). -/
def Obligations.FixedPointLaws : Prop :=
  (∀ (f : BitVec 8) (x y : Word) (s : State),
    exec (.fxMul f x y) s = exec (.fxMul f y x) s ∧
    (f.toNat ≤ 30 →
      exec (.fxMul f x (1#32 <<< f.toNat)) s = .next { s with rsp := ⟨true, .ok, x⟩ }) ∧
    exec (.fxMul 0#8 x y) s = .next { s with rsp := ⟨true, .ok, x * y⟩ }) ∧
  (∀ (c : Config) (F : Nat) (x y : Word),
    x ≠ 0x80000000#32 → y ≠ 0x80000000#32 → y ≠ 0#32 →
    fxDiv c F (-x) y = -(fxDiv c F x y) ∧ fxDiv c F x (-y) = -(fxDiv c F x y))

/-- O20. FX_DIV returns the low 32 bits of the 64-bit quotient of x scaled by 2^F, truncated toward zero; divisor 0 gives DIV0 (states R100, R93).
DIV0 is any function of the build's table (log entry 3); the last clause is R11's value of this hardware. -/
def Obligations.FxDivTruncatesTheScaledQuotient : Prop :=
  (∀ (f : BitVec 8) (a b : Word), decode (packCmd 0x13#8 f a b) = .ok (.fxDiv f a b)) ∧
  (∀ (f : BitVec 8) (a b : Word) (s : State), f.toNat < 32 → b ≠ 0#32 →
    exec (.fxDiv f a b) s = .next
      { s with rsp := ⟨true, .ok,
          ((a.signExtend 64 <<< f.toNat).sdiv (b.signExtend 64)).setWidth 32⟩ }) ∧
  (∀ (f : BitVec 8) (a : Word) (s : State), f.toNat < 32 →
    exec (.fxDiv f a 0#32) s = .next { s with rsp := ⟨true, .ok, div0 s.cfg a f.toNat⟩ }) ∧
  (∀ (f : BitVec 8) (a b : Word) (s : State), 32 ≤ f.toNat →
    ∃ t, exec (.fxDiv f a b) s = .next t ∧ t.rsp = ⟨true, .illegalOperand, 0#32⟩) ∧
  (∀ (a : Word) (F : Nat), div0 Config.reference a F = 0#32)

/-- O21. FX_CMP returns -1, 0 or 1 by signed comparison and changes no register (states R101, R94). -/
def Obligations.FxCmpIsTheSignedOrder : Prop :=
  (∀ (f : BitVec 8) (a b : Word), decode (packCmd 0x14#8 f a b) = .ok (.fxCmp a b)) ∧
  (∀ (a b : Word) (s : State),
    (a.slt b = true → exec (.fxCmp a b) s = .next { s with rsp := ⟨true, .ok, 0xFFFFFFFF#32⟩ }) ∧
    (a = b → exec (.fxCmp a b) s = .next { s with rsp := ⟨true, .ok, 0#32⟩ }) ∧
    (b.slt a = true → exec (.fxCmp a b) s = .next { s with rsp := ⟨true, .ok, 1#32⟩ }))

/-- O22. FX_CVT shifts left to more fractional bits and right arithmetically to fewer (states R102, R95). -/
def Obligations.FxCvtShiftsBetweenFormats : Prop :=
  (∀ (f : BitVec 8) (a b : Word), decode (packCmd 0x15#8 f a b) = .ok (.fxCvt f a b)) ∧
  (∀ (f : BitVec 8) (a b : Word) (s : State), f.toNat < 32 → b.toNat < 32 →
    (f.toNat ≤ b.toNat →
      exec (.fxCvt f a b) s = .next { s with rsp := ⟨true, .ok, a <<< (b.toNat - f.toNat)⟩ }) ∧
    (b.toNat < f.toNat →
      exec (.fxCvt f a b) s = .next
        { s with rsp := ⟨true, .ok, a.sshiftRight (f.toNat - b.toNat)⟩ })) ∧
  (∀ (f : BitVec 8) (a b : Word) (s : State), 32 ≤ f.toNat ∨ 32 ≤ b.toNat →
    ∃ t, exec (.fxCvt f a b) s = .next t ∧ t.rsp = ⟨true, .illegalOperand, 0#32⟩)

/-- O23. lit rounds to the nearest integer, a tie away from zero, and wraps; the reset thresholds, ONE and DELTA_CONST_RAW are literals (rests on 00_scope.md section 5 (R17), 00_scope.md section 4 (R8, R10), 10_state.md (R40, R41, R44, R45), 95_test_vectors.md section 2.1). -/
def Obligations.LiteralRoundsHalfAwayFromZero : Prop :=
  (∀ (F : Nat) (num : Int) (den : Nat), 0 < den →
    ∃ r : Int, lit F num den = BitVec.ofInt 32 r ∧
      2 * |r * den - num * 2 ^ F| ≤ den ∧
      (2 * |r * den - num * 2 ^ F| = den → |num * 2 ^ F| < |r * den|)) ∧
  lit 28 2 10 = 0x03333333#32 ∧ lit 28 (-3) 10 = 0xFB333333#32 ∧
  lit 0 1 2 = 1#32 ∧ lit 0 (-1) 2 = 0xFFFFFFFF#32 ∧ lit 0 3 2 = 2#32 ∧
  lit 28 1 4 = 0x04000000#32 ∧ lit 28 1 2 = 0x08000000#32 ∧ one = lit 28 1 1 ∧
  (∀ c : Config,
    (State.resetFor c).sch.lo = lit 28 1 4 ∧ (State.resetFor c).sch.hi = lit 28 1 2 ∧
    (State.resetFor c).td.cmp.lo = lit 28 1 4 ∧ (State.resetFor c).td.cmp.hi = lit 28 1 2 ∧
    deltaConstRaw c = lit 28 2 (10 * c.sampleRate)) ∧
  deltaConstRaw Config.reference = 0x0000045E#32

/-- O24. DELTA_CONST_RAW is the raw nearest to 0.2 / SAMPLE_RATE, for every sample rate (states R10). -/
def Obligations.DeltaConstIsTheNearestRaw : Prop :=
  (∀ c : Config, c.WF →
    (2 * (deltaConstRaw c).toInt - 1) * (5 * (c.sampleRate : Int)) ≤ 2 ^ 29 ∧
    2 ^ 29 < (2 * (deltaConstRaw c).toInt + 1) * (5 * (c.sampleRate : Int))) ∧
  deltaConstRaw Config.reference = 1118#32

/-- O25. PH_SETPERIOD sets the increment to the truncated reciprocal times the multiplier (states R111).
DIV0 is any function of the build's table (log entry 3). -/
def Obligations.PhSetPeriodScalesTheReciprocal : Prop :=
  (∀ (f : BitVec 8) (a b : Word), decode (packCmd 0x31#8 f a b) = .ok (.phSetPeriod a b)) ∧
  (∀ (a b : Word) (s : State),
    (0 < a.toInt → exec (.phSetPeriod a b) s = .next
      { s with
        ph := { s.ph with delta := BitVec.ofInt 32 (268435456 / a.toInt * b.toInt) }
        rsp := ⟨true, .ok, 0#32⟩ }) ∧
    (a.toInt < 0 → exec (.phSetPeriod a b) s = .next
      { s with
        ph := { s.ph with delta := BitVec.ofInt 32 (-(268435456 / -a.toInt) * b.toInt) }
        rsp := ⟨true, .ok, 0#32⟩ }) ∧
    (a = 0#32 → exec (.phSetPeriod a b) s = .next
      { s with
        ph := { s.ph with delta := div0 s.cfg 0x10000000#32 0 * b }
        rsp := ⟨true, .ok, 0#32⟩ }))

/-- O26. PH_PROC returns the phase, then adds the increment and subtracts 1.0 once if strictly above 1.0 (states R112). -/
def Obligations.PhProcReturnsThenAdvances : Prop :=
  (∀ (f : BitVec 8) (a b : Word), decode (packCmd 0x30#8 f a b) = .ok .phProc) ∧
  (∀ s : State, exec .phProc s = .next
    { s with
      ph := { s.ph with
        phase :=
          if (0x10000000#32).slt (s.ph.phase + s.ph.delta)
          then s.ph.phase + s.ph.delta - 0x10000000#32
          else s.ph.phase + s.ph.delta }
      rsp := ⟨true, .ok, s.ph.phase⟩ })

/-- O27. A correctly used Phasor's phase stays in [0, 1.0] (states R114). -/
def Obligations.PhasorStaysInTheClosedUnitInterval : Prop :=
  (∀ s : State,
    0 ≤ s.ph.phase.toInt → s.ph.phase.toInt ≤ 268435456 →
    0 ≤ s.ph.delta.toInt → s.ph.delta.toInt ≤ 268435456 →
    ∃ t, exec .phProc s = .next t ∧
      0 ≤ t.ph.phase.toInt ∧ t.ph.phase.toInt ≤ 268435456 ∧
      0 ≤ t.rsp.data.toInt ∧ t.rsp.data.toInt ≤ 268435456 ∧
      t.ph.phase.toInt =
        if 268435456 < s.ph.phase.toInt + s.ph.delta.toInt
        then s.ph.phase.toInt + s.ph.delta.toInt - 268435456
        else s.ph.phase.toInt + s.ph.delta.toInt) ∧
  (∀ (a b : Word) (s : State), 1 ≤ a.toInt → 0 ≤ b.toInt → b.toInt ≤ a.toInt →
    ∃ t, exec (.phSetPeriod a b) s = .next t ∧
      0 ≤ t.ph.delta.toInt ∧ t.ph.delta.toInt ≤ 268435456)

/-- O28. After n calls from phase 0 the phase and the number of wraps are given in closed form; a period of `samples` calls makes multiplier - 1 wraps (states R115). -/
def Obligations.PhasorWrapCount : Prop :=
  (∀ (s : State) (n : Nat), 1 ≤ n → s.ph.phase = 0#32 →
    0 < s.ph.delta.toInt → s.ph.delta.toInt < 268435456 →
    (afterN .phProc n s).ph.phase.toInt = (n * s.ph.delta.toInt - 1) % 268435456 + 1 ∧
    (((List.range n).filter (fun k =>
        decide ((afterN .phProc (k + 1) s).ph.phase.toInt < (afterN .phProc k s).ph.phase.toInt))).length
      : Int) = (n * s.ph.delta.toInt + 268435455) / 268435456 - 1) ∧
  (∀ (a b : Word) (s : State), s.ph.phase = 0#32 →
    1 ≤ b.toInt → b.toInt < a.toInt → (a.toInt - 1) * b.toInt < 268435456 →
    let t := after (.phSetPeriod a b) s
    268435456 * (b.toInt - 1) < a.toInt * t.ph.delta.toInt ∧
    a.toInt * t.ph.delta.toInt ≤ 268435456 * b.toInt ∧
    (((List.range a.toNat).filter (fun k =>
        decide ((afterN .phProc (k + 1) t).ph.phase.toInt < (afterN .phProc k t).ph.phase.toInt))).length
      : Int) = b.toInt - 1)

/-- O29. Delta 1.0 sticks at 1.0, delta 2.0 climbs and overflows, and below 0 the phase runs on down until the 32-bit sum overflows (rests on 41_phasor.md (R113)). -/
def Obligations.PhasorOutsideItsRangeIsNotCorrected : Prop :=
  (∀ (s : State) (n : Nat), s.ph.phase = 0#32 → s.ph.delta = 0x10000000#32 →
    (afterN .phProc 1 s).rsp = ⟨true, .ok, 0#32⟩ ∧
    (afterN .phProc (n + 2) s).rsp = ⟨true, .ok, 0x10000000#32⟩) ∧
  (∀ (s : State) (n : Nat), s.ph.phase = 0#32 → s.ph.delta = 0x20000000#32 →
    (afterN .phProc (n + 1) s).rsp = ⟨true, .ok, BitVec.ofInt 32
      (if n % 11 ≤ 6 then ((n % 11 : Nat) : Int) * 268435456
        else (((n % 11 : Nat) : Int) - 7) * 536870912 - 2147483648)⟩) ∧
  (∀ (s : State) (n : Nat), s.ph.phase = 0#32 → s.ph.delta.toInt < 0 →
    -2147483648 ≤ n * s.ph.delta.toInt →
    (afterN .phProc n s).ph.phase.toInt = n * s.ph.delta.toInt ∧
    (afterN .phProc (n + 1) s).rsp = ⟨true, .ok, BitVec.ofInt 32 (n * s.ph.delta.toInt)⟩) ∧
  (∀ s : State, s.ph.phase.toInt ≤ 0 → s.ph.delta.toInt < 0 →
    -2147483648 ≤ s.ph.phase.toInt + s.ph.delta.toInt →
    ∃ t, exec .phProc s = .next t ∧
      t.ph.phase.toInt = s.ph.phase.toInt + s.ph.delta.toInt ∧
      t.ph.delta = s.ph.delta ∧ t.rsp = ⟨true, .ok, s.ph.phase⟩)

/-- O30. ENV_START forces RISING; ENV_STOP turns a held RISING into FALLING and otherwise does nothing (states R121, R122). -/
def Obligations.EnvStartAndEnvStop : Prop :=
  (∀ (f : BitVec 8) (a b : Word), decode (packCmd 0x41#8 f a b) = .ok .envStart) ∧
  (∀ (f : BitVec 8) (a b : Word), decode (packCmd 0x42#8 f a b) = .ok .envStop) ∧
  (∀ s : State, exec .envStart s = .next
    { s with env := { s.env with state := .rising }, rsp := ⟨true, .ok, 0#32⟩ }) ∧
  (∀ s : State,
    (s.env.state = .rising ∧ s.env.hold = true → exec .envStop s = .next
      { s with env := { s.env with state := .falling }, rsp := ⟨true, .ok, 0#32⟩ }) ∧
    (¬ (s.env.state = .rising ∧ s.env.hold = true) → exec .envStop s = .next
      { s with rsp := ⟨true, .ok, 0#32⟩ }))

/-- O31. ENV_PROC returns the phase and makes one step of the rise or the fall (states R123). -/
def Obligations.EnvProcAdvancesTheEnvelope : Prop :=
  (∀ (f : BitVec 8) (a b : Word), decode (packCmd 0x40#8 f a b) = .ok .envProc) ∧
  (∀ s : State,
    let up := deltaConstRaw s.cfg * s.env.attack
    let down := deltaConstRaw s.cfg * s.env.decay
    (s.env.state = .rising → exec .envProc s = .next
      { s with
        env := { s.env with
          phase := if (0x10000000#32).slt (s.env.phase + up) then 0x10000000#32 else s.env.phase + up
          state := if (0x10000000#32).slt (s.env.phase + up) ∧ s.env.hold = false
            then .falling else .rising }
        rsp := ⟨true, .ok, s.env.phase⟩ }) ∧
    (s.env.state = .falling → exec .envProc s = .next
      { s with
        env := { s.env with
          phase := if (s.env.phase - down).sle 0#32 then 0#32 else s.env.phase - down
          state := if (s.env.phase - down).sle 0#32 then .waiting else .falling }
        rsp := ⟨true, .ok, s.env.phase⟩ }) ∧
    (s.env.state = .waiting → exec .envProc s = .next
      { s with rsp := ⟨true, .ok, s.env.phase⟩ }))

/-- O32. ENV_STATE makes the table's transitions and no others, over all commands (rests on 42_adenv.md (R120)). -/
def Obligations.EnvelopeTransitionsAreTheTables : Prop :=
  ∀ (i : Instr) (s t : State), exec i s = .next t →
    t.env.state = s.env.state ∨
    (i = .envStart ∧ t.env.state = .rising ∧ t.env.phase = s.env.phase) ∨
    (i = .envStop ∧ s.env.state = .rising ∧ s.env.hold = true ∧ t.env.state = .falling ∧
      t.env.phase = s.env.phase) ∨
    (i = .envProc ∧ s.env.state = .rising ∧ s.env.hold = false ∧
      (0x10000000#32).slt (s.env.phase + deltaConstRaw s.cfg * s.env.attack) = true ∧
      t.env.state = .falling ∧ t.env.phase = 0x10000000#32) ∨
    (i = .envProc ∧ s.env.state = .falling ∧
      (s.env.phase - deltaConstRaw s.cfg * s.env.decay).sle 0#32 = true ∧
      t.env.state = .waiting ∧ t.env.phase = 0#32)

/-- O33. A rise from 0 takes floor(ONE / up) + 1 calls and a fall from 1.0 takes ceil(ONE / down) calls (rests on 42_adenv.md (R124), 42_adenv.md (R125)). -/
def Obligations.EnvelopeRiseAndFallTakeCountedCalls : Prop :=
  ∀ s : State,
    (let u := (deltaConstRaw s.cfg).toInt * s.env.attack.toInt
     s.env.state = .rising → s.env.hold = false → s.env.phase = 0#32 → 0 < u → u ≤ 268435456 →
      (∀ n : Nat, (n : Int) ≤ 268435456 / u →
        (afterN .envProc n s).env.state = .rising ∧
        (afterN .envProc n s).env.phase.toInt = n * u) ∧
      (afterN .envProc ((268435456 / u).toNat + 1) s).env.state = .falling ∧
      (afterN .envProc ((268435456 / u).toNat + 1) s).env.phase = 0x10000000#32) ∧
    (let v := (deltaConstRaw s.cfg).toInt * s.env.decay.toInt
     s.env.state = .falling → s.env.phase = 0x10000000#32 → 0 < v → v ≤ 268435456 →
      (∀ n : Nat, (n : Int) < (268435456 + v - 1) / v →
        (afterN .envProc n s).env.state = .falling ∧
        (afterN .envProc n s).env.phase.toInt = 268435456 - n * v) ∧
      (afterN .envProc ((268435456 + v - 1) / v).toNat s).env.state = .waiting ∧
      (afterN .envProc ((268435456 + v - 1) / v).toNat s).env.phase = 0#32)

/-- O34. A held envelope stays in RISING for any number of ENV_PROC calls until ENV_STOP (rests on 42_adenv.md (R125), 42_adenv.md (R122)). -/
def Obligations.HeldEnvelopeRisesUntilStopped : Prop :=
  ∀ (s : State) (n : Nat), s.env.hold = true →
    (afterN .envProc n (after .envStart s)).env.state = .rising ∧
    (after .envStop (afterN .envProc n (after .envStart s))).env.state = .falling

/-- O35. With moderate non-negative speeds at every ENV_PROC, ENV_PHASE stays in [0, 1.0] and is 0 in WAITING (states R128). -/
def Obligations.EnvelopePhaseStaysInRange : Prop :=
  (∀ (i : Instr) (s t : State), exec i s = .next t → s.EnvInRange →
    (i = .envProc →
      0 ≤ (deltaConstRaw s.cfg * s.env.attack).toInt ∧
      (deltaConstRaw s.cfg * s.env.attack).toInt ≤ 7 * 268435456 - 1 ∧
      0 ≤ (deltaConstRaw s.cfg * s.env.decay).toInt ∧
      (deltaConstRaw s.cfg * s.env.decay).toInt ≤ 7 * 268435456) →
    t.EnvInRange ∧
    (i = .envProc →
      (s.env.phase + deltaConstRaw s.cfg * s.env.attack).toInt =
        s.env.phase.toInt + (deltaConstRaw s.cfg * s.env.attack).toInt ∧
      (s.env.phase - deltaConstRaw s.cfg * s.env.decay).toInt =
        s.env.phase.toInt - (deltaConstRaw s.cfg * s.env.decay).toInt)) ∧
  (∀ s t : State, step s = .next t → s.EnvInRange →
    (∀ w, s.portAction = .command w → decode w = .ok .envProc →
      0 ≤ (deltaConstRaw s.cfg * s.env.attack).toInt ∧
      (deltaConstRaw s.cfg * s.env.attack).toInt ≤ 7 * 268435456 - 1 ∧
      0 ≤ (deltaConstRaw s.cfg * s.env.decay).toInt ∧
      (deltaConstRaw s.cfg * s.env.decay).toInt ≤ 7 * 268435456) →
    t.EnvInRange) ∧
  (∀ c : Config, (State.resetFor c).EnvInRange) ∧
  (∀ (c : Config) (k : Word), 0 < (deltaConstRaw c).toInt → 0 ≤ k.toInt →
    k.toInt ≤ (7 * 268435456 - 1) / (deltaConstRaw c).toInt →
    0 ≤ (deltaConstRaw c * k).toInt ∧ (deltaConstRaw c * k).toInt ≤ 7 * 268435456 - 1) ∧
  (7 * 268435456 - 1) / (deltaConstRaw Config.reference).toInt = 1680722

/-- O36. LFSR_PROC shifts right and assigns the inverted tap parity to bit LFSR_BITS - 1 (states R136). -/
def Obligations.LfsrShiftsAndInjectsTheInvertedParity : Prop :=
  (∀ (f : BitVec 8) (a b : Word), decode (packCmd 0x20#8 f a b) = .ok .lfsrProc) ∧
  (∀ s : State,
    let fb : Bool := decide
      (((List.range 32).countP (fun j => s.lfsr.value.getLsbD j && s.lfsr.mask.getLsbD j)) % 2 = 0)
    ∃ v : Word,
      exec .lfsrProc s = .next
        { s with
          lfsr := { s.lfsr with value := v }
          rsp := ⟨true, .ok, if fb then 1#32 else 0#32⟩ } ∧
      (1 ≤ s.lfsr.bits.toNat → s.lfsr.bits.toNat ≤ 32 →
        ∀ j, j < 32 →
          v.getLsbD j = if j = s.lfsr.bits.toNat - 1 then fb else s.lfsr.value.getLsbD (j + 1)))

/-- O37. With mask 1 from value 0 the LFSR returns n ones and n zeros in turn, for every width n (states R137). -/
def Obligations.DefaultMaskLfsrIsASquareWave : Prop :=
  ∀ s : State, 1 ≤ s.lfsr.bits.toNat → s.lfsr.bits.toNat ≤ 32 →
    s.lfsr.mask = 1#32 → s.lfsr.value = 0#32 →
    (∀ k : Nat, (afterN .lfsrProc (k + 1) s).rsp =
      ⟨true, .ok, if k / s.lfsr.bits.toNat % 2 = 0 then 1#32 else 0#32⟩) ∧
    (afterN .lfsrProc (2 * s.lfsr.bits.toNat) s).lfsr.value = 0#32

/-- O38. After 32 calls no bit of the LFSR at or above its width is set (rests on 43_lfsr.md (R136), 43_lfsr.md (R139)). -/
def Obligations.SeedBitsAboveTheWidthDrain : Prop :=
  ∀ (s : State) (n j : Nat), 1 ≤ s.lfsr.bits.toNat → s.lfsr.bits.toNat ≤ 32 → 32 ≤ n →
    s.lfsr.bits.toNat ≤ j → (afterN .lfsrProc n s).lfsr.value.getLsbD j = false

/-- O39. SCH_PROC fires on a strict crossing above hi, clears on a strict crossing below lo, and otherwise holds (states R147, R146). -/
def Obligations.SchProcStepsTheComparator : Prop :=
  (∀ (f : BitVec 8) (a b : Word), decode (packCmd 0x60#8 f a b) = .ok (.schProc a)) ∧
  (∀ (a : Word) (s : State),
    let level : Word :=
      if s.sch.last.slt s.sch.hi && s.sch.hi.slt a then (if (0#32).slt a then 0x10000000#32 else 0xF0000000#32)
          else if s.sch.lo.slt s.sch.last && a.slt s.sch.lo then 0#32 else s.sch.state
    exec (.schProc a) s = .next
      { s with sch := { s.sch with last := a, state := level }, rsp := ⟨true, .ok, level⟩ })

/-- O40. The two crossings never coincide, an input inside the band changes no level, and -1.0 needs a negative hi (rests on 44_schmidt.md (R148), 44_schmidt.md (R149)). -/
def Obligations.ComparatorGuarantees : Prop :=
  (∀ (a : Word) (s : State),
    ¬ ((s.sch.last.toInt < s.sch.hi.toInt ∧ s.sch.hi.toInt < a.toInt) ∧
       (s.sch.lo.toInt < s.sch.last.toInt ∧ a.toInt < s.sch.lo.toInt)) ∧
    (s.sch.lo.toInt ≤ a.toInt → a.toInt ≤ s.sch.hi.toInt →
      (after (.schProc a) s).sch.state = s.sch.state ∧
      (after (.schProc a) s).rsp = ⟨true, .ok, s.sch.state⟩) ∧
    (s.td.cmp.lo.toInt ≤ a.toInt → a.toInt ≤ s.td.cmp.hi.toInt →
      (after (.tdProc a) s).td.cmp.state = s.td.cmp.state)) ∧
  (∀ (i : Instr) (s t : State), exec i s = .next t →
    (0 ≤ s.sch.hi.toInt → s.sch.state ≠ 0xF0000000#32 → t.sch.state ≠ 0xF0000000#32) ∧
    (0 ≤ s.td.cmp.hi.toInt → s.td.cmp.state ≠ 0xF0000000#32 → t.td.cmp.state ≠ 0xF0000000#32))

/-- O41. TD_PROC steps its own comparator and returns 1 exactly when the level rose above the previous one (states R156). -/
def Obligations.TdProcReportsARisingLevel : Prop :=
  (∀ (f : BitVec 8) (a b : Word), decode (packCmd 0x70#8 f a b) = .ok (.tdProc a)) ∧
  (∀ (a : Word) (s : State),
    let level : Word :=
      if s.td.cmp.last.slt s.td.cmp.hi && s.td.cmp.hi.slt a then (if (0#32).slt a then 0x10000000#32 else 0xF0000000#32)
          else if s.td.cmp.lo.slt s.td.cmp.last && a.slt s.td.cmp.lo then 0#32 else s.td.cmp.state
    exec (.tdProc a) s = .next
      { s with
        td := { cmp := { s.td.cmp with last := a, state := level }, lastVal := level }
        rsp := ⟨true, .ok, if s.td.lastVal.slt level then 1#32 else 0#32⟩ })

/-- O42. A rise of the comparator's level is reported by exactly one TD_PROC (states R157). -/
def Obligations.TdReportsEachRiseOnce : Prop :=
  ∀ (a b : Word) (s : State), s.td.lastVal = s.td.cmp.state →
    ((after (.tdProc a) s).rsp = ⟨true, .ok, 1#32⟩ ↔
      s.td.cmp.state.toInt < (after (.tdProc a) s).td.cmp.state.toInt) ∧
    ((after (.tdProc a) s).rsp = ⟨true, .ok, 0#32⟩ ↔
      ¬ s.td.cmp.state.toInt < (after (.tdProc a) s).td.cmp.state.toInt) ∧
    ((after (.tdProc b) (after (.tdProc a) s)).td.cmp.state = (after (.tdProc a) s).td.cmp.state →
      (after (.tdProc b) (after (.tdProc a) s)).rsp = ⟨true, .ok, 0#32⟩)

/-- O43. TG_RESET sets the counter to -1 and nothing else (states R162). -/
def Obligations.TgResetRearmsTheCounter : Prop :=
  (∀ (f : BitVec 8) (a b : Word), decode (packCmd 0x51#8 f a b) = .ok .tgReset) ∧
  (∀ s : State, exec .tgReset s = .next
    { s with tg := { s.tg with count := 0xFFFFFFFF#32 }, rsp := ⟨true, .ok, 0#32⟩ })

/-- O44. TG_PROC increments the saturating counter and emits TG_AMP strictly inside the window delay .. delay + width (states R163, R161). -/
def Obligations.TgProcEmitsInsideTheWindow : Prop :=
  (∀ (f : BitVec 8) (a b : Word), decode (packCmd 0x50#8 f a b) = .ok .tgProc) ∧
  (∀ s : State,
    let c : Word := if s.tg.count = 0x7FFFFFFF#32 then 0x7FFFFFFF#32 else s.tg.count + 1#32
    exec .tgProc s = .next
      { s with
        tg := { s.tg with count := c }
        rsp := ⟨true, .ok,
          if s.tg.delay.toInt < c.toInt ∧ c.toInt < s.tg.delay.toInt + s.tg.width.toInt
          then s.tg.amp else 0#32⟩ })

/-- O45. After TG_RESET: delay + 1 zeros, width - 1 times TG_AMP, then zeros for ever, a window past 2^31 - 1 excepted (states R165). -/
def Obligations.TrigGenPulseShape : Prop :=
  ∀ (s : State) (n : Nat), 0 ≤ s.tg.delay.toInt →
    ((n : Int) ≤ s.tg.delay.toInt →
      (afterN .tgProc (n + 1) (after .tgReset s)).rsp = ⟨true, .ok, 0#32⟩) ∧
    (s.tg.delay.toInt < 2147483647 →
      s.tg.delay.toInt < n → (n : Int) < s.tg.delay.toInt + s.tg.width.toInt →
      (afterN .tgProc (n + 1) (after .tgReset s)).rsp = ⟨true, .ok, s.tg.amp⟩) ∧
    (s.tg.delay.toInt + s.tg.width.toInt ≤ n →
      s.tg.delay.toInt + s.tg.width.toInt ≤ 2147483647 →
      (afterN .tgProc (n + 1) (after .tgReset s)).rsp = ⟨true, .ok, 0#32⟩) ∧
    (s.tg.delay.toInt < 2147483647 →
      s.tg.delay.toInt + s.tg.width.toInt ≤ n →
      2147483647 < s.tg.delay.toInt + s.tg.width.toInt →
      (afterN .tgProc (n + 1) (after .tgReset s)).rsp = ⟨true, .ok, s.tg.amp⟩) ∧
    (s.tg.delay.toInt = 2147483647 →
      (afterN .tgProc (n + 1) (after .tgReset s)).rsp = ⟨true, .ok, 0#32⟩)

/-- O46. From the saturated counter TG_PROC returns 0 for ever, unless the window reaches past 2^31 - 1 (states R164). -/
def Obligations.TrigGenIsSilentFromReset : Prop :=
  (∀ (s : State) (n : Nat), s.tg.count = 0x7FFFFFFF#32 →
    (afterN .tgProc n s).tg.count = 0x7FFFFFFF#32 ∧
    (s.tg.delay.toInt + s.tg.width.toInt ≤ 2147483647 ∨ 2147483647 ≤ s.tg.delay.toInt →
      (afterN .tgProc (n + 1) s).rsp = ⟨true, .ok, 0#32⟩) ∧
    (¬ (s.tg.delay.toInt + s.tg.width.toInt ≤ 2147483647 ∨ 2147483647 ≤ s.tg.delay.toInt) →
      (afterN .tgProc (n + 1) s).rsp = ⟨true, .ok, s.tg.amp⟩)) ∧
  (∀ c : Config, (State.resetFor c).tg.count = 0x7FFFFFFF#32)

/-- O47. CRD_PROC records and clears the count on a trigger and otherwise increments it, saturating (states R172). -/
def Obligations.CrdProcCountsOrRecords : Prop :=
  (∀ (f : BitVec 8) (a b : Word), decode (packCmd 0x80#8 f a b) = .ok (.crdProc a)) ∧
  (∀ (a : Word) (s : State),
    (a.getLsbD 0 = true → exec (.crdProc a) s = .next
      { s with crd := { count := 0#32, interval := s.crd.count }, rsp := ⟨true, .ok, 0#32⟩ }) ∧
    (a.getLsbD 0 = false → exec (.crdProc a) s = .next
      { s with
        crd := { s.crd with
          count := if s.crd.count = 0x7FFFFFFF#32 then 0x7FFFFFFF#32 else s.crd.count + 1#32 }
        rsp := ⟨true, .ok, 0#32⟩ }))

/-- O48. A trigger after k calls without one records k, saturating at 2^31 - 1 (states R173). -/
def Obligations.ClockRateMeasuresThePeriodLessOne : Prop :=
  ∀ (s : State) (trig idle : Word) (k : Nat),
    trig.getLsbD 0 = true → idle.getLsbD 0 = false →
    let t := after (.crdProc trig) (afterN (.crdProc idle) k (after (.crdProc trig) s))
    t.crd.interval.toInt = min (k : Int) 2147483647 ∧ t.crd.count = 0#32

/-- O49. NOP returns 0 and changes no register, whatever its unread fields hold (states R176).
The port's list of inputs to come and the response field are the model's own (log entry 1). -/
def Obligations.NopChangesNothing : Prop :=
  (∀ (f : BitVec 8) (a b : Word), decode (packCmd 0x00#8 f a b) = .ok .nop) ∧
  (∀ s : State, exec .nop s = .next { s with rsp := ⟨true, .ok, 0#32⟩ }) ∧
  (∀ (s : State) (idle : PortCycle) (rest : List PortCycle) (f : BitVec 8) (a b : Word),
    idle.rst = false → idle.cmdValid = false →
    ∃ t u, step { s with port := idle :: rest } = .next t ∧
      step { s with port := presents (packCmd 0x00#8 f a b) :: rest } = .next u ∧
      { u with rsp := { u.rsp with valid := false } } = t)

/-- O50. RDREG returns each of the 29 registers at its index, zero-extended, changes none, and is refused elsewhere (states R177). -/
def Obligations.RdregReturnsEachMappedRegister : Prop :=
  (∀ (f : BitVec 8) (a b : Word), decode (packCmd 0x01#8 f a b) = .ok (.rdreg a)) ∧
  (∀ s : State,
    exec (.rdreg 0x00#32) s = .next { s with rsp := ⟨true, .ok, s.status.setWidth 32⟩ } ∧
    exec (.rdreg 0x01#32) s = .next { s with rsp := ⟨true, .ok, 0x0000201C#32⟩ } ∧
    exec (.rdreg 0x02#32) s = .next { s with rsp := ⟨true, .ok, BitVec.ofNat 32 s.cfg.sampleRate⟩ } ∧
    exec (.rdreg 0x03#32) s = .next { s with rsp := ⟨true, .ok, deltaConstRaw s.cfg⟩ } ∧
    exec (.rdreg 0x10#32) s = .next { s with rsp := ⟨true, .ok, s.lfsr.value⟩ } ∧
    exec (.rdreg 0x11#32) s = .next { s with rsp := ⟨true, .ok, s.lfsr.mask⟩ } ∧
    exec (.rdreg 0x12#32) s = .next { s with rsp := ⟨true, .ok, s.lfsr.bits.setWidth 32⟩ } ∧
    exec (.rdreg 0x20#32) s = .next { s with rsp := ⟨true, .ok, s.ph.phase⟩ } ∧
    exec (.rdreg 0x21#32) s = .next { s with rsp := ⟨true, .ok, s.ph.delta⟩ } ∧
    exec (.rdreg 0x30#32) s = .next { s with rsp := ⟨true, .ok, s.env.phase⟩ } ∧
    exec (.rdreg 0x31#32) s = .next { s with rsp := ⟨true, .ok, match s.env.state with | .waiting => 0#32 | .rising => 1#32 | .falling => 2#32⟩ } ∧
    exec (.rdreg 0x32#32) s = .next { s with rsp := ⟨true, .ok, s.env.attack⟩ } ∧
    exec (.rdreg 0x33#32) s = .next { s with rsp := ⟨true, .ok, s.env.decay⟩ } ∧
    exec (.rdreg 0x34#32) s = .next { s with rsp := ⟨true, .ok, if s.env.hold then 1#32 else 0#32⟩ } ∧
    exec (.rdreg 0x40#32) s = .next { s with rsp := ⟨true, .ok, s.tg.count⟩ } ∧
    exec (.rdreg 0x41#32) s = .next { s with rsp := ⟨true, .ok, s.tg.delay⟩ } ∧
    exec (.rdreg 0x42#32) s = .next { s with rsp := ⟨true, .ok, s.tg.width⟩ } ∧
    exec (.rdreg 0x43#32) s = .next { s with rsp := ⟨true, .ok, s.tg.amp⟩ } ∧
    exec (.rdreg 0x50#32) s = .next { s with rsp := ⟨true, .ok, s.sch.lo⟩ } ∧
    exec (.rdreg 0x51#32) s = .next { s with rsp := ⟨true, .ok, s.sch.hi⟩ } ∧
    exec (.rdreg 0x52#32) s = .next { s with rsp := ⟨true, .ok, s.sch.last⟩ } ∧
    exec (.rdreg 0x53#32) s = .next { s with rsp := ⟨true, .ok, s.sch.state⟩ } ∧
    exec (.rdreg 0x60#32) s = .next { s with rsp := ⟨true, .ok, s.td.cmp.lo⟩ } ∧
    exec (.rdreg 0x61#32) s = .next { s with rsp := ⟨true, .ok, s.td.cmp.hi⟩ } ∧
    exec (.rdreg 0x62#32) s = .next { s with rsp := ⟨true, .ok, s.td.cmp.last⟩ } ∧
    exec (.rdreg 0x63#32) s = .next { s with rsp := ⟨true, .ok, s.td.cmp.state⟩ } ∧
    exec (.rdreg 0x64#32) s = .next { s with rsp := ⟨true, .ok, s.td.lastVal⟩ } ∧
    exec (.rdreg 0x70#32) s = .next { s with rsp := ⟨true, .ok, s.crd.count⟩ } ∧
    exec (.rdreg 0x71#32) s = .next { s with rsp := ⟨true, .ok, s.crd.interval⟩ }) ∧
  (∀ (a : Word) (s : State), a.toNat ∉ mappedIndices →
    ∃ t, exec (.rdreg a) s = .next t ∧ t.rsp = ⟨true, .illegalOperand, 0#32⟩)

/-- O51. WRREG writes each of the 13 writable registers and nothing else, and is refused elsewhere (states R178). -/
def Obligations.WrregWritesEachWritableRegister : Prop :=
  (∀ (f : BitVec 8) (a b : Word), decode (packCmd 0x02#8 f a b) = .ok (.wrreg a b)) ∧
  (∀ (v : Word) (s : State),
    exec (.wrreg 0x10#32 v) s = .next { s with lfsr := { s.lfsr with value := v }, rsp := ⟨true, .ok, 0#32⟩ } ∧
    exec (.wrreg 0x11#32 v) s = .next { s with lfsr := { s.lfsr with mask := v }, rsp := ⟨true, .ok, 0#32⟩ } ∧
    exec (.wrreg 0x32#32 v) s = .next { s with env := { s.env with attack := v }, rsp := ⟨true, .ok, 0#32⟩ } ∧
    exec (.wrreg 0x33#32 v) s = .next { s with env := { s.env with decay := v }, rsp := ⟨true, .ok, 0#32⟩ } ∧
    exec (.wrreg 0x34#32 v) s = .next { s with env := { s.env with hold := v.getLsbD 0 }, rsp := ⟨true, .ok, 0#32⟩ } ∧
    exec (.wrreg 0x41#32 v) s = .next { s with tg := { s.tg with delay := v }, rsp := ⟨true, .ok, 0#32⟩ } ∧
    exec (.wrreg 0x42#32 v) s = .next { s with tg := { s.tg with width := v }, rsp := ⟨true, .ok, 0#32⟩ } ∧
    exec (.wrreg 0x43#32 v) s = .next { s with tg := { s.tg with amp := v }, rsp := ⟨true, .ok, 0#32⟩ } ∧
    exec (.wrreg 0x50#32 v) s = .next { s with sch := { s.sch with lo := v }, rsp := ⟨true, .ok, 0#32⟩ } ∧
    exec (.wrreg 0x51#32 v) s = .next { s with sch := { s.sch with hi := v }, rsp := ⟨true, .ok, 0#32⟩ } ∧
    exec (.wrreg 0x60#32 v) s = .next { s with td := { s.td with cmp := { s.td.cmp with lo := v } }, rsp := ⟨true, .ok, 0#32⟩ } ∧
    exec (.wrreg 0x61#32 v) s = .next { s with td := { s.td with cmp := { s.td.cmp with hi := v } }, rsp := ⟨true, .ok, 0#32⟩ } ∧
    (1 ≤ v.toNat → v.toNat ≤ 32 → exec (.wrreg 0x12#32 v) s = .next
      { s with lfsr := { s.lfsr with bits := v.setWidth 6 }, rsp := ⟨true, .ok, 0#32⟩ })) ∧
  (∀ (a v : Word) (s : State),
    a.toNat ∉ writableIndices ∨ (a = 0x12#32 ∧ (v.toNat < 1 ∨ 32 < v.toNat)) →
    exec (.wrreg a v) s = .next
      { s with
        status := if s.status.getLsbD 0 then s.status else 5#3
        rsp := ⟨true, .illegalOperand, 0#32⟩ })

/-- O52. A register written by WRREG reads back, and every other register reads as before (states R64). -/
def Obligations.WrregThenRdregReadsItBack : Prop :=
  ∀ (r q : Reg) (v : Word) (s : State), legalWrite (regIdx r).toNat v.toNat = true →
    let t := after (.wrreg (regIdx r) v) s
    (after (.rdreg (regIdx r)) t).rsp = ⟨true, .ok, if r = .envHold then v &&& 1#32 else v⟩ ∧
    (q ≠ r → (after (.rdreg (regIdx q)) t).rsp = (after (.rdreg (regIdx q)) s).rsp) ∧
    after (.rdreg (regIdx q)) t = { t with rsp := (after (.rdreg (regIdx q)) t).rsp }

/-- O53. Two states whose registers all read alike have the same registers: no state is hidden (states R52). -/
def Obligations.RegistersAreFullyObservable : Prop :=
  ∀ s t : State,
    (∀ r : Reg, (after (.rdreg (regIdx r)) s).rsp = (after (.rdreg (regIdx r)) t).rsp) →
    s.status = t.status ∧ s.lfsr = t.lfsr ∧ s.ph = t.ph ∧ s.env = t.env ∧ s.tg = t.tg ∧
    s.sch = t.sch ∧ s.td = t.td ∧ s.crd = t.crd

/-- O54. A register changes only by the commands the register map lists for it (rests on 10_state.md section 1 (R21), 41_phasor.md (R110), 43_lfsr.md (R135), 44_schmidt.md (R145), 45_trigdetector.md (R155), 46_triggen.md (R160), 47_clock_rate_detector.md (R170), 48_system.md (R175)). -/
def Obligations.OnlyTheListedCommandsWriteARegister : Prop :=
  ∀ (i : Instr) (s t : State), exec i s = .next t →
    (∀ r : Reg, mayWrite i r = false → readReg r t = readReg r s) ∧
    t.cfg = s.cfg ∧ t.port = s.port

/-- O55. Commands of different units commute: same state and same responses in either order (rests on 70_reset_and_hazards.md section 3 (R212), 00_scope.md section 1 (R2)). -/
def Obligations.CommandsOfDifferentUnitsCommute : Prop :=
  ∀ (i j : Instr) (s : State), unitOf i ≠ unitOf j → unitOf i ≠ .system → unitOf j ≠ .system →
    { after j (after i s) with rsp := s.rsp } = { after i (after j s) with rsp := s.rsp } ∧
    (after i (after j s)).rsp = (after i s).rsp ∧
    (after j (after i s)).rsp = (after j s).rsp

/-- O56. Each pseudo-instruction's expansion has the effect it stands for (rests on 30_encoding.md section 4 (R81)). -/
def Obligations.PseudoInstructionsHaveTheirEffect : Prop :=
  ∀ (s : State) (x y z : Word) (f : BitVec 8),
    (1 ≤ x.toNat → x.toNat ≤ 32 →
      afterAll (expandPseudo (.lfsrConfig x y z)) s =
        { s with lfsr := { value := z, mask := y, bits := x.setWidth 6 }, rsp := ⟨true, .ok, 0#32⟩ }) ∧
    afterAll (expandPseudo (.envConfig x y z)) s =
      { s with
        env := { s.env with attack := x, decay := y, hold := z.getLsbD 0 }
        rsp := ⟨true, .ok, 0#32⟩ } ∧
    afterAll (expandPseudo (.tgConfig x y z)) s =
      { s with tg := { s.tg with delay := x, width := y, amp := z }, rsp := ⟨true, .ok, 0#32⟩ } ∧
    afterAll (expandPseudo (.schConfig x y)) s =
      { s with sch := { s.sch with lo := x, hi := y }, rsp := ⟨true, .ok, 0#32⟩ } ∧
    afterAll (expandPseudo (.tdConfig x y)) s =
      { s with
        td := { s.td with cmp := { s.td.cmp with lo := x, hi := y } }
        rsp := ⟨true, .ok, 0#32⟩ } ∧
    (f.toNat < 32 →
      afterAll (expandPseudo (.fxFromInt f x)) s =
        { s with rsp := ⟨true, .ok, BitVec.ofInt 32 (x.toInt * 2 ^ f.toNat)⟩ } ∧
      afterAll (expandPseudo (.fxToInt f x)) s =
        { s with rsp := ⟨true, .ok, BitVec.ofInt 32 (x.toInt / 2 ^ f.toNat)⟩ }) ∧
    expandPseudo .crdTrig = [.crdProc 1#32] ∧ expandPseudo .crdTick = [.crdProc 0#32]

/-- O57. Every clock cycle keeps the invariant of reachable states (states R53). -/
def Obligations.EveryStepKeepsTheInvariant : Prop :=
  ∀ s t : State, s.Inv → step s = .next t → t.Inv

/-- O58. The reset state of every build meets the invariant (rests on 10_state.md section 10 (R53), 70_reset_and_hazards.md section 1 (R206)). -/
def Obligations.ResetMeetsTheInvariant : Prop :=
  (∀ c : Config, c.WF → (State.resetFor c).Inv) ∧ State.reset.Inv
end

