-- ==== Sys2Proof/Laws/Arith.lean ====
section
/-! SUPPORT. The arithmetic in its bit-vector form, and the integer an in-range `wrap` denotes. -/

namespace Sys2Proof.Machine

/-- `wrap` of an integer in the signed range denotes that integer (R14). -/
theorem wrap_toInt (x : Int) (h1 : -2147483648 ≤ x) (h2 : x ≤ 2147483647) : (wrap x).toInt = x := by
  rw [BitVec.toInt_ofInt]
  apply Int.bmod_eq_of_le <;> simp <;> omega

theorem one_toInt : one.toInt = 268435456 := by decide

/-- Every pattern is in the signed range. -/
theorem toInt_range (x : Word) : -2147483648 ≤ x.toInt ∧ x.toInt ≤ 2147483647 := by
  have h1 := @BitVec.toInt_lt 32 x
  have h2 := @BitVec.le_toInt 32 x
  norm_num at h1 h2
  omega

theorem fxAdd_eq_add (x y : Word) : fxAdd x y = x + y := by
  simp [fxAdd, BitVec.ofInt_add]

theorem fxSub_eq_sub (x y : Word) : fxSub x y = x - y := by
  apply BitVec.eq_of_toInt_eq
  simp [fxSub, BitVec.toInt_sub]

theorem imul_eq_mul (x y : Word) : imul x y = x * y := by
  simp [imul, fxMul, BitVec.ofInt_mul]

/-- Comparison by the signed order, as patterns. -/
theorem fxCmp_eq_slt (x y : Word) :
    fxCmp x y = if x.slt y then 0xFFFFFFFF#32 else if x = y then 0#32 else 1#32 := by
  simp only [fxCmp, BitVec.slt, decide_eq_true_eq, BitVec.toInt_inj]
  rfl

/-- The saturating increment stops at CTR_MAX and is the plain increment elsewhere (R161). -/
theorem satInc_eq (x : Word) :
    satInc x = if x = 0x7FFFFFFF#32 then 0x7FFFFFFF#32 else x + 1#32 := by
  split
  · next h => subst h; decide
  · next h =>
    have hne : x.toInt ≠ 2147483647 := fun h' => h (BitVec.eq_of_toInt_eq (by rw [h']; decide))
    have := (toInt_range x).2
    rw [satInc, s32, ctrMax, min_eq_left (by omega), wrap, BitVec.ofInt_add]
    simp

/-- The integer the saturating increment denotes. -/
theorem satInc_toInt (x : Word) : (satInc x).toInt = min (x.toInt + 1) 2147483647 := by
  have := toInt_range x
  rw [satInc, s32, ctrMax, wrap_toInt] <;> omega

/-- Rounding a quotient of naturals. -/
theorem rndDiv_natCast (n d : Nat) (hd : 0 < d) : rndDiv n d = ((2 * n + d) / (2 * d) : Nat) := by
  cases n with
  | zero =>
    have : d / (2 * d) = 0 := Nat.div_eq_of_lt (by omega)
    simp [rndDiv, this]
  | succ n => rw [rndDiv, Int.sign_eq_one_of_pos (by omega), one_mul, Int.natAbs_natCast]

/-- Rounding is odd, so a tie goes away from zero on both sides (R17). -/
theorem rndDiv_neg (n : Int) (d : Nat) : rndDiv (-n) d = -rndDiv n d := by
  simp [rndDiv]

/-- DELTA_CONST_RAW as the rounded quotient, which needs no wrap (R10). -/
theorem deltaConstRaw_toInt (c : Config) (h : c.WF) :
    (deltaConstRaw c).toInt = ((2 ^ 30 + 10 * c.sampleRate) / (20 * c.sampleRate) : Nat) := by
  have h1 := h.1
  have h2 : (2 * 2 ^ 29 + 10 * c.sampleRate) / (2 * (10 * c.sampleRate)) ≤ 2 ^ 29 + 1 := by
    apply Nat.div_le_of_le_mul
    nlinarith
  rw [show (2 ^ 30 + 10 * c.sampleRate) / (20 * c.sampleRate)
    = (2 * 2 ^ 29 + 10 * c.sampleRate) / (2 * (10 * c.sampleRate)) by congr 1; ring]
  rw [deltaConstRaw, lit, show ((2 : Int) * 2 ^ fSig) = ((2 ^ 29 : Nat) : Int) by norm_num,
    rndDiv_natCast _ _ (by omega)]
  generalize (2 * 2 ^ 29 + 10 * c.sampleRate) / (2 * (10 * c.sampleRate)) = q at *
  rw [wrap_toInt] <;> omega

end Sys2Proof.Machine
end

