-- ==== Sys2Proof/Laws/Decode.lean ====
section
/-! SUPPORT. The bits of a packed command word, and the four fields read back from it. -/

namespace Sys2Proof

/-- One bit of a packed word, by the field it stands in. -/
theorem packCmd_getLsbD (op f : BitVec 8) (a b : Word) (j : Nat) :
    (packCmd op f a b).getLsbD j =
      if j < 32 then b.getLsbD j else if j < 64 then a.getLsbD (j - 32)
      else if j < 72 then f.getLsbD (j - 64) else op.getLsbD (j - 72) := by
  unfold packCmd
  simp only [BitVec.getLsbD_append]
  split_ifs <;> first | rfl | omega

theorem cmdOp_packCmd (op f : BitVec 8) (a b : Word) : cmdOp (packCmd op f a b) = op := by
  apply BitVec.eq_of_getLsbD_eq
  intro j hj
  rw [cmdOp, BitVec.getLsbD_extractLsb', packCmd_getLsbD, if_neg (by omega), if_neg (by omega),
    if_neg (by omega)]
  simp [hj]

theorem cmdF_packCmd (op f : BitVec 8) (a b : Word) : cmdF (packCmd op f a b) = f := by
  apply BitVec.eq_of_getLsbD_eq
  intro j hj
  rw [cmdF, BitVec.getLsbD_extractLsb', packCmd_getLsbD, if_neg (by omega), if_neg (by omega),
    if_pos (by omega)]
  simp [hj]

theorem cmdA_packCmd (op f : BitVec 8) (a b : Word) : cmdA (packCmd op f a b) = a := by
  apply BitVec.eq_of_getLsbD_eq
  intro j hj
  rw [cmdA, BitVec.getLsbD_extractLsb', packCmd_getLsbD, if_neg (by omega), if_pos (by omega)]
  simp [hj]

theorem cmdB_packCmd (op f : BitVec 8) (a b : Word) : cmdB (packCmd op f a b) = b := by
  apply BitVec.eq_of_getLsbD_eq
  intro j hj
  rw [cmdB, BitVec.getLsbD_extractLsb', packCmd_getLsbD, if_pos (by omega)]
  simp [hj]

/-- Masking a packed word with ones in `op` alone clears the other fields. -/
theorem packCmd_and_opMask (op f : BitVec 8) (a b : Word) :
    packCmd op f a b &&& packCmd 0xFF#8 0#8 0#32 0#32 = packCmd op 0#8 0#32 0#32 := by
  apply BitVec.eq_of_getLsbD_eq
  intro j hj
  rw [BitVec.getLsbD_and]
  simp only [packCmd_getLsbD]
  split_ifs
  · simp
  · simp
  · simp
  · rw [show 0xFF#8 = BitVec.allOnes 8 from rfl, BitVec.getLsbD_allOnes]
    simp
    omega

/-- The decoder over a word given by its fields: `op` selects, and the other fields are the operands. -/
theorem decode_packCmd (op f : BitVec 8) (a b : Word) :
    decode (packCmd op f a b) =
      match op.toNat with
      | 0x00 => .ok .nop
      | 0x01 => .ok (.rdreg a)
      | 0x02 => .ok (.wrreg a b)
      | 0x10 => .ok (.fxAdd a b)
      | 0x11 => .ok (.fxSub a b)
      | 0x12 => .ok (.fxMul f a b)
      | 0x13 => .ok (.fxDiv f a b)
      | 0x14 => .ok (.fxCmp a b)
      | 0x15 => .ok (.fxCvt f a b)
      | 0x20 => .ok .lfsrProc
      | 0x30 => .ok .phProc
      | 0x31 => .ok (.phSetPeriod a b)
      | 0x40 => .ok .envProc
      | 0x41 => .ok .envStart
      | 0x42 => .ok .envStop
      | 0x50 => .ok .tgProc
      | 0x51 => .ok .tgReset
      | 0x60 => .ok (.schProc a)
      | 0x70 => .ok (.tdProc a)
      | 0x80 => .ok (.crdProc a)
      | _ => .error (.illegalOpcode op) := by
  simp only [decode, cmdOp_packCmd, cmdF_packCmd, cmdA_packCmd, cmdB_packCmd] <;> rfl

end Sys2Proof
end

