-- ==== Sys2Proof/Laws/Operands.lean ====
section
/-! SUPPORT. The register map as a one-to-one map between names and indices, its agreement with the index
lists of WellFormed, and what a register write leaves to a read. -/

namespace Sys2Proof.Machine

theorem regOfIdx_regIdx (r : Reg) : regOfIdx (regIdx r) = some r := by cases r <;> decide

theorem regIdx_of_regOfIdx {a : Word} {r : Reg} (h : regOfIdx a = some r) : regIdx r = a := by
  simpa using List.find?_some h

theorem mem_regAll (r : Reg) : r ∈ regAll := by cases r <;> decide

theorem regIdx_ne_of_regOfIdx_none {a : Word} (h : regOfIdx a = none) (r : Reg) : regIdx r ≠ a := by
  simpa using List.find?_eq_none.1 h r (mem_regAll r)

/-- The index list of WellFormed is the register map's indices, in order (R21). -/
theorem mappedIndices_eq : mappedIndices = regAll.map (fun r => (regIdx r).toNat) := by decide

/-- An index is mapped exactly when the map names a register (R61). -/
theorem mappedIndices_contains (a : Word) :
    mappedIndices.contains a.toNat = (regOfIdx a).isSome := by
  rw [Bool.eq_iff_iff, mappedIndices_eq]
  cases h : regOfIdx a with
  | none =>
    have hne := regIdx_ne_of_regOfIdx_none h
    simpa [BitVec.toNat_inj] using fun r _ => hne r
  | some r =>
    have hr := regIdx_of_regOfIdx h
    simpa [BitVec.toNat_inj] using ⟨r, mem_regAll r, hr⟩

/-- WellFormed's check of a WRREG is the machine's access and range check (R178). -/
theorem legalWrite_regIdx (r : Reg) (v : Word) :
    legalWrite (regIdx r).toNat v.toNat = (regAccess r == .rw && writeInRange r v) := by
  cases r <;> simp [legalWrite, writableIndices, regIdx, regAccess, writeInRange]

theorem legalWrite_unmapped {a : Word} (h : regOfIdx a = none) (v : Nat) :
    legalWrite a.toNat v = false := by
  have hm := mappedIndices_contains a
  rw [h] at hm
  simp [mappedIndices] at hm
  simp only [legalWrite, writableIndices, Bool.and_eq_false_imp, List.contains_iff_mem, List.mem_cons,
    List.not_mem_nil, or_false]
  omega

/-- A written register reads back: the whole value, or bit 0 of it for ENV_HOLD (R64). -/
theorem readReg_writeReg (r : Reg) (v : Word) (s : State) (hw : regAccess r = .rw)
    (hv : writeInRange r v = true) :
    readReg r (writeReg r v s) = if r = .envHold then v &&& 1#32 else v := by
  cases r <;> simp only [regAccess, reduceCtorEq] at hw <;>
    simp only [readReg, writeReg, reduceCtorEq, if_false, if_true]
  · simp only [writeInRange, Bool.and_eq_true, decide_eq_true_eq] at hv
    have h32 : v.toNat ≤ 32 := hv.2
    apply BitVec.eq_of_toNat_eq
    rw [BitVec.toNat_setWidth, BitVec.toNat_setWidth, Nat.mod_eq_of_lt (a := v.toNat) (show v.toNat < 2 ^ 6 by omega),
      Nat.mod_eq_of_lt v.isLt]
  · apply BitVec.eq_of_getLsbD_eq
    intro i hi
    rcases i with _ | i
    · simp [bitWord]
    · simp [bitWord, BitVec.getLsbD_one]

/-- Writing one register changes no other (R178). -/
theorem readReg_writeReg_ne (r q : Reg) (v : Word) (s : State) (h : q ≠ r) :
    readReg q (writeReg r v s) = readReg q s := by
  cases r <;> first | rfl | (cases q <;> first | rfl | exact absurd rfl h)

@[simp] theorem writeReg_cfg (r : Reg) (v : Word) (s : State) : (writeReg r v s).cfg = s.cfg := by
  cases r <;> rfl
@[simp] theorem writeReg_status (r : Reg) (v : Word) (s : State) :
    (writeReg r v s).status = s.status := by cases r <;> rfl
@[simp] theorem writeReg_ph (r : Reg) (v : Word) (s : State) : (writeReg r v s).ph = s.ph := by
  cases r <;> rfl
@[simp] theorem writeReg_crd (r : Reg) (v : Word) (s : State) : (writeReg r v s).crd = s.crd := by
  cases r <;> rfl
@[simp] theorem writeReg_port (r : Reg) (v : Word) (s : State) : (writeReg r v s).port = s.port := by
  cases r <;> rfl
@[simp] theorem writeReg_rsp (r : Reg) (v : Word) (s : State) : (writeReg r v s).rsp = s.rsp := by
  cases r <;> rfl
@[simp] theorem writeReg_env_state (r : Reg) (v : Word) (s : State) :
    (writeReg r v s).env.state = s.env.state := by cases r <;> rfl
@[simp] theorem writeReg_env_phase (r : Reg) (v : Word) (s : State) :
    (writeReg r v s).env.phase = s.env.phase := by cases r <;> rfl
@[simp] theorem writeReg_tg_count (r : Reg) (v : Word) (s : State) :
    (writeReg r v s).tg.count = s.tg.count := by cases r <;> rfl
@[simp] theorem writeReg_sch_state (r : Reg) (v : Word) (s : State) :
    (writeReg r v s).sch.state = s.sch.state := by cases r <;> rfl
@[simp] theorem writeReg_td_state (r : Reg) (v : Word) (s : State) :
    (writeReg r v s).td.cmp.state = s.td.cmp.state := by cases r <;> rfl
@[simp] theorem writeReg_td_lastVal (r : Reg) (v : Word) (s : State) :
    (writeReg r v s).td.lastVal = s.td.lastVal := by cases r <;> rfl

end Sys2Proof.Machine
end

