-- ==== Sys2Proof/Laws/State.lean ====
section
/-! SUPPORT. One lemma per field per named update of the state, each true by definition, so that no later
proof unfolds an update. -/

namespace Sys2Proof.Machine

section
variable (s : State) (d : Word)
@[simp] theorem respond_cfg : (s.respond d).cfg = s.cfg := rfl
@[simp] theorem respond_status : (s.respond d).status = s.status := rfl
@[simp] theorem respond_lfsr : (s.respond d).lfsr = s.lfsr := rfl
@[simp] theorem respond_ph : (s.respond d).ph = s.ph := rfl
@[simp] theorem respond_env : (s.respond d).env = s.env := rfl
@[simp] theorem respond_tg : (s.respond d).tg = s.tg := rfl
@[simp] theorem respond_sch : (s.respond d).sch = s.sch := rfl
@[simp] theorem respond_td : (s.respond d).td = s.td := rfl
@[simp] theorem respond_crd : (s.respond d).crd = s.crd := rfl
@[simp] theorem respond_port : (s.respond d).port = s.port := rfl
@[simp] theorem respond_rsp : (s.respond d).rsp = Response.okData d := rfl
end

section
variable (s : State) (e : CmdError)
@[simp] theorem refuse_cfg : (s.refuse e).cfg = s.cfg := rfl
@[simp] theorem refuse_status : (s.refuse e).status = recordError e s.status := rfl
@[simp] theorem refuse_lfsr : (s.refuse e).lfsr = s.lfsr := rfl
@[simp] theorem refuse_ph : (s.refuse e).ph = s.ph := rfl
@[simp] theorem refuse_env : (s.refuse e).env = s.env := rfl
@[simp] theorem refuse_tg : (s.refuse e).tg = s.tg := rfl
@[simp] theorem refuse_sch : (s.refuse e).sch = s.sch := rfl
@[simp] theorem refuse_td : (s.refuse e).td = s.td := rfl
@[simp] theorem refuse_crd : (s.refuse e).crd = s.crd := rfl
@[simp] theorem refuse_port : (s.refuse e).port = s.port := rfl
@[simp] theorem refuse_rsp : (s.refuse e).rsp = ⟨true, e.rspStatus, 0#32⟩ := rfl
end

section
variable (s : State) (u : Lfsr)
@[simp] theorem setLfsr_cfg : (s.setLfsr u).cfg = s.cfg := rfl
@[simp] theorem setLfsr_status : (s.setLfsr u).status = s.status := rfl
@[simp] theorem setLfsr_lfsr : (s.setLfsr u).lfsr = u := rfl
@[simp] theorem setLfsr_ph : (s.setLfsr u).ph = s.ph := rfl
@[simp] theorem setLfsr_env : (s.setLfsr u).env = s.env := rfl
@[simp] theorem setLfsr_tg : (s.setLfsr u).tg = s.tg := rfl
@[simp] theorem setLfsr_sch : (s.setLfsr u).sch = s.sch := rfl
@[simp] theorem setLfsr_td : (s.setLfsr u).td = s.td := rfl
@[simp] theorem setLfsr_crd : (s.setLfsr u).crd = s.crd := rfl
@[simp] theorem setLfsr_port : (s.setLfsr u).port = s.port := rfl
@[simp] theorem setLfsr_rsp : (s.setLfsr u).rsp = s.rsp := rfl
end

section
variable (s : State) (u : Phasor)
@[simp] theorem setPh_cfg : (s.setPh u).cfg = s.cfg := rfl
@[simp] theorem setPh_status : (s.setPh u).status = s.status := rfl
@[simp] theorem setPh_lfsr : (s.setPh u).lfsr = s.lfsr := rfl
@[simp] theorem setPh_ph : (s.setPh u).ph = u := rfl
@[simp] theorem setPh_env : (s.setPh u).env = s.env := rfl
@[simp] theorem setPh_tg : (s.setPh u).tg = s.tg := rfl
@[simp] theorem setPh_sch : (s.setPh u).sch = s.sch := rfl
@[simp] theorem setPh_td : (s.setPh u).td = s.td := rfl
@[simp] theorem setPh_crd : (s.setPh u).crd = s.crd := rfl
@[simp] theorem setPh_port : (s.setPh u).port = s.port := rfl
@[simp] theorem setPh_rsp : (s.setPh u).rsp = s.rsp := rfl
end

section
variable (s : State) (u : Envelope)
@[simp] theorem setEnv_cfg : (s.setEnv u).cfg = s.cfg := rfl
@[simp] theorem setEnv_status : (s.setEnv u).status = s.status := rfl
@[simp] theorem setEnv_lfsr : (s.setEnv u).lfsr = s.lfsr := rfl
@[simp] theorem setEnv_ph : (s.setEnv u).ph = s.ph := rfl
@[simp] theorem setEnv_env : (s.setEnv u).env = u := rfl
@[simp] theorem setEnv_tg : (s.setEnv u).tg = s.tg := rfl
@[simp] theorem setEnv_sch : (s.setEnv u).sch = s.sch := rfl
@[simp] theorem setEnv_td : (s.setEnv u).td = s.td := rfl
@[simp] theorem setEnv_crd : (s.setEnv u).crd = s.crd := rfl
@[simp] theorem setEnv_port : (s.setEnv u).port = s.port := rfl
@[simp] theorem setEnv_rsp : (s.setEnv u).rsp = s.rsp := rfl
end

section
variable (s : State) (u : TrigGen)
@[simp] theorem setTg_cfg : (s.setTg u).cfg = s.cfg := rfl
@[simp] theorem setTg_status : (s.setTg u).status = s.status := rfl
@[simp] theorem setTg_lfsr : (s.setTg u).lfsr = s.lfsr := rfl
@[simp] theorem setTg_ph : (s.setTg u).ph = s.ph := rfl
@[simp] theorem setTg_env : (s.setTg u).env = s.env := rfl
@[simp] theorem setTg_tg : (s.setTg u).tg = u := rfl
@[simp] theorem setTg_sch : (s.setTg u).sch = s.sch := rfl
@[simp] theorem setTg_td : (s.setTg u).td = s.td := rfl
@[simp] theorem setTg_crd : (s.setTg u).crd = s.crd := rfl
@[simp] theorem setTg_port : (s.setTg u).port = s.port := rfl
@[simp] theorem setTg_rsp : (s.setTg u).rsp = s.rsp := rfl
end

section
variable (s : State) (u : Schmidt)
@[simp] theorem setSch_cfg : (s.setSch u).cfg = s.cfg := rfl
@[simp] theorem setSch_status : (s.setSch u).status = s.status := rfl
@[simp] theorem setSch_lfsr : (s.setSch u).lfsr = s.lfsr := rfl
@[simp] theorem setSch_ph : (s.setSch u).ph = s.ph := rfl
@[simp] theorem setSch_env : (s.setSch u).env = s.env := rfl
@[simp] theorem setSch_tg : (s.setSch u).tg = s.tg := rfl
@[simp] theorem setSch_sch : (s.setSch u).sch = u := rfl
@[simp] theorem setSch_td : (s.setSch u).td = s.td := rfl
@[simp] theorem setSch_crd : (s.setSch u).crd = s.crd := rfl
@[simp] theorem setSch_port : (s.setSch u).port = s.port := rfl
@[simp] theorem setSch_rsp : (s.setSch u).rsp = s.rsp := rfl
end

section
variable (s : State) (u : TrigDetector)
@[simp] theorem setTd_cfg : (s.setTd u).cfg = s.cfg := rfl
@[simp] theorem setTd_status : (s.setTd u).status = s.status := rfl
@[simp] theorem setTd_lfsr : (s.setTd u).lfsr = s.lfsr := rfl
@[simp] theorem setTd_ph : (s.setTd u).ph = s.ph := rfl
@[simp] theorem setTd_env : (s.setTd u).env = s.env := rfl
@[simp] theorem setTd_tg : (s.setTd u).tg = s.tg := rfl
@[simp] theorem setTd_sch : (s.setTd u).sch = s.sch := rfl
@[simp] theorem setTd_td : (s.setTd u).td = u := rfl
@[simp] theorem setTd_crd : (s.setTd u).crd = s.crd := rfl
@[simp] theorem setTd_port : (s.setTd u).port = s.port := rfl
@[simp] theorem setTd_rsp : (s.setTd u).rsp = s.rsp := rfl
end

section
variable (s : State) (u : ClockRate)
@[simp] theorem setCrd_cfg : (s.setCrd u).cfg = s.cfg := rfl
@[simp] theorem setCrd_status : (s.setCrd u).status = s.status := rfl
@[simp] theorem setCrd_lfsr : (s.setCrd u).lfsr = s.lfsr := rfl
@[simp] theorem setCrd_ph : (s.setCrd u).ph = s.ph := rfl
@[simp] theorem setCrd_env : (s.setCrd u).env = s.env := rfl
@[simp] theorem setCrd_tg : (s.setCrd u).tg = s.tg := rfl
@[simp] theorem setCrd_sch : (s.setCrd u).sch = s.sch := rfl
@[simp] theorem setCrd_td : (s.setCrd u).td = s.td := rfl
@[simp] theorem setCrd_crd : (s.setCrd u).crd = u := rfl
@[simp] theorem setCrd_port : (s.setCrd u).port = s.port := rfl
@[simp] theorem setCrd_rsp : (s.setCrd u).rsp = s.rsp := rfl
end

section
variable (s : State)
@[simp] theorem takeCycle_cfg : (s.takeCycle).cfg = s.cfg := rfl
@[simp] theorem takeCycle_status : (s.takeCycle).status = s.status := rfl
@[simp] theorem takeCycle_lfsr : (s.takeCycle).lfsr = s.lfsr := rfl
@[simp] theorem takeCycle_ph : (s.takeCycle).ph = s.ph := rfl
@[simp] theorem takeCycle_env : (s.takeCycle).env = s.env := rfl
@[simp] theorem takeCycle_tg : (s.takeCycle).tg = s.tg := rfl
@[simp] theorem takeCycle_sch : (s.takeCycle).sch = s.sch := rfl
@[simp] theorem takeCycle_td : (s.takeCycle).td = s.td := rfl
@[simp] theorem takeCycle_crd : (s.takeCycle).crd = s.crd := rfl
@[simp] theorem takeCycle_port : (s.takeCycle).port = s.port.tail := rfl
@[simp] theorem takeCycle_rsp : (s.takeCycle).rsp = s.rsp := rfl
end

section
variable (s : State)
@[simp] theorem idleCycle_cfg : (s.idleCycle).cfg = s.cfg := rfl
@[simp] theorem idleCycle_status : (s.idleCycle).status = s.status := rfl
@[simp] theorem idleCycle_lfsr : (s.idleCycle).lfsr = s.lfsr := rfl
@[simp] theorem idleCycle_ph : (s.idleCycle).ph = s.ph := rfl
@[simp] theorem idleCycle_env : (s.idleCycle).env = s.env := rfl
@[simp] theorem idleCycle_tg : (s.idleCycle).tg = s.tg := rfl
@[simp] theorem idleCycle_sch : (s.idleCycle).sch = s.sch := rfl
@[simp] theorem idleCycle_td : (s.idleCycle).td = s.td := rfl
@[simp] theorem idleCycle_crd : (s.idleCycle).crd = s.crd := rfl
@[simp] theorem idleCycle_port : (s.idleCycle).port = s.port := rfl
@[simp] theorem idleCycle_rsp : (s.idleCycle).rsp = Response.quiet := rfl
end

section
variable (s : State)
@[simp] theorem resetCycle_cfg : s.resetCycle.cfg = s.cfg := rfl
@[simp] theorem resetCycle_status : s.resetCycle.status = (State.resetFor s.cfg).status := rfl
@[simp] theorem resetCycle_lfsr : s.resetCycle.lfsr = (State.resetFor s.cfg).lfsr := rfl
@[simp] theorem resetCycle_ph : s.resetCycle.ph = (State.resetFor s.cfg).ph := rfl
@[simp] theorem resetCycle_env : s.resetCycle.env = (State.resetFor s.cfg).env := rfl
@[simp] theorem resetCycle_tg : s.resetCycle.tg = (State.resetFor s.cfg).tg := rfl
@[simp] theorem resetCycle_sch : s.resetCycle.sch = (State.resetFor s.cfg).sch := rfl
@[simp] theorem resetCycle_td : s.resetCycle.td = (State.resetFor s.cfg).td := rfl
@[simp] theorem resetCycle_crd : s.resetCycle.crd = (State.resetFor s.cfg).crd := rfl
@[simp] theorem resetCycle_port : s.resetCycle.port = s.port := rfl
@[simp] theorem resetCycle_rsp : s.resetCycle.rsp = (State.resetFor s.cfg).rsp := rfl
end

section
variable (s : State) (nbits w : Nat)
@[simp] theorem withFetchWord_cfg : (s.withFetchWord nbits w).cfg = s.cfg := rfl
@[simp] theorem withFetchWord_status : (s.withFetchWord nbits w).status = s.status := rfl
@[simp] theorem withFetchWord_lfsr : (s.withFetchWord nbits w).lfsr = s.lfsr := rfl
@[simp] theorem withFetchWord_ph : (s.withFetchWord nbits w).ph = s.ph := rfl
@[simp] theorem withFetchWord_env : (s.withFetchWord nbits w).env = s.env := rfl
@[simp] theorem withFetchWord_tg : (s.withFetchWord nbits w).tg = s.tg := rfl
@[simp] theorem withFetchWord_sch : (s.withFetchWord nbits w).sch = s.sch := rfl
@[simp] theorem withFetchWord_td : (s.withFetchWord nbits w).td = s.td := rfl
@[simp] theorem withFetchWord_crd : (s.withFetchWord nbits w).crd = s.crd := rfl
@[simp] theorem withFetchWord_port : (s.withFetchWord nbits w).port = { rst := false, cmdValid := true, cmd := tableWord nbits w } :: s.port.tail := rfl
@[simp] theorem withFetchWord_rsp : (s.withFetchWord nbits w).rsp = s.rsp := rfl
end

end Sys2Proof.Machine
end

