-- ==== Sys2Proof/Laws/Ops.lean ====
section
/-! SUPPORT. What each shared operation can do: recording an error, the comparator step, the outcome of a
command and of a step. -/

namespace Sys2Proof.Machine

/-- Recording an error writes STATUS only when none is recorded (R188). -/
theorem recordError_eq (e : CmdError) (st : BitVec 3) :
    recordError e st =
      if st.getLsbD 0 then st else match e with
        | .illegalOpcode => 3#3
        | .illegalOperand => 5#3 := by
  cases e <;> rfl

/-- The comparator step by its two exclusive crossings (R146, R148). -/
theorem schmidtStep_eq (c : Schmidt) (x : Word) :
    schmidtStep c x =
      { c with
        last := x
        state :=
          if c.last.toInt < c.hi.toInt ∧ c.hi.toInt < x.toInt then
            (if 0 < x.toInt then one else minusOne)
          else if c.lo.toInt < c.last.toInt ∧ x.toInt < c.lo.toInt then 0#32 else c.state } := by
  unfold schmidtStep s32
  dsimp only
  congr 1
  split_ifs <;> first | rfl | omega

/-- Every instruction completes from every state. -/
theorem exec_next (i : Instr) (s : State) : ∃ t, exec i s = .next t := by
  cases i <;> simp only [exec, execNop, execRdreg, execWrreg, execFxAdd, execFxSub, execFxMul, execFxDiv,
    execFxCmp, execFxCvt, execLfsrProc, execPhProc, execPhSetPeriod, execEnvProc, execEnvStart,
    execEnvStop, execTgProc, execTgReset, execSchProc, execTdProc, execCrdProc, complete, illegalOperand]
  all_goals (repeat' split)
  all_goals exact ⟨_, rfl⟩

theorem exec_eq_after (i : Instr) (s : State) : exec i s = .next (after i s) := by
  obtain ⟨t, h⟩ := exec_next i s
  simp [after, h]

/-- A WRREG with legal operands is one register write and its response. -/
theorem execWrreg_regIdx (r : Reg) (v : Word) (s : State) (hw : regAccess r = .rw)
    (hv : writeInRange r v = true) :
    exec (.wrreg (regIdx r) v) s = .next ((writeReg r v s).respond 0#32) := by
  simp only [exec, execWrreg, regOfIdx_regIdx, hw, hv, if_true]
  rfl

/-- A RDREG of a mapped index is the register's value. -/
theorem execRdreg_regIdx (r : Reg) (s : State) :
    exec (.rdreg (regIdx r)) s = .next (s.respond (readReg r s)) := by
  simp only [exec, execRdreg, regOfIdx_regIdx]
  rfl

/-- An instruction with illegal operands is refused (R187). -/
theorem exec_of_not_wellFormed (i : Instr) (s : State) (h : i.wellFormed = false) :
    exec i s = .next (s.refuse .illegalOperand) := by
  cases i <;> simp only [Instr.wellFormed, Bool.true_eq_false] at h
  case rdreg a =>
    rw [mappedIndices_contains] at h
    simp only [exec, execRdreg]
    split
    · rfl
    · next h' => simp [h'] at h
  case wrreg a b =>
    simp only [exec, execWrreg]
    split
    · rfl
    · next r h' =>
      obtain rfl := regIdx_of_regOfIdx h'
      rw [legalWrite_regIdx] at h
      split
      · rfl
      · rfl
      · next hr => simp [hr] at h; simp [h, illegalOperand]
  all_goals
    simp only [exec, execFxMul, execFxDiv, execFxCvt, legalFormat, formatLegal] at h ⊢
    simp only [h]
    rfl

/-- The state changes an executed command can make, the response apart: none, or the one write of its unit
or register. -/
theorem exec_cases (i : Instr) (s : State) :
    (i.wellFormed = false ∧ exec i s = .next (s.refuse .illegalOperand)) ∨
    (i.wellFormed = true ∧ ∃ d : Word,
      exec i s = .next (s.respond d) ∨
      (i = .lfsrProc ∧ exec i s = .next ((s.setLfsr { s.lfsr with value := lfsrNext s.lfsr }).respond d)) ∨
      (i = .phProc ∧ exec i s = .next ((s.setPh { s.ph with phase := phaseNext s.ph }).respond d)) ∨
      (∃ a b, i = .phSetPeriod a b ∧
        exec i s = .next ((s.setPh { s.ph with delta := periodDelta s.cfg a b }).respond d)) ∨
      (i = .envProc ∧ exec i s = .next ((s.setEnv (envNext s.cfg s.env)).respond d)) ∨
      (i = .envStart ∧ exec i s = .next ((s.setEnv { s.env with state := .rising }).respond d)) ∨
      (i = .envStop ∧ exec i s = .next ((s.setEnv { s.env with state := envStopped s.env }).respond d)) ∨
      (i = .tgProc ∧ exec i s = .next ((s.setTg { s.tg with count := satInc s.tg.count }).respond d)) ∨
      (i = .tgReset ∧ exec i s = .next ((s.setTg { s.tg with count := wrap (-1) }).respond d)) ∨
      (∃ a, i = .schProc a ∧ exec i s = .next ((s.setSch (schmidtStep s.sch a)).respond d)) ∨
      (∃ a, i = .tdProc a ∧ exec i s = .next
        ((s.setTd { cmp := schmidtStep s.td.cmp a, lastVal := (schmidtStep s.td.cmp a).state }).respond d)) ∨
      (∃ a, i = .crdProc a ∧ exec i s = .next ((s.setCrd (crdNext (triggered a) s.crd)).respond d)) ∨
      (∃ r v, i = .wrreg (regIdx r) v ∧ regAccess r = .rw ∧ writeInRange r v = true ∧
        exec i s = .next ((writeReg r v s).respond d))) := by
  cases hw : i.wellFormed with
  | false => exact .inl ⟨rfl, exec_of_not_wellFormed i s hw⟩
  | true =>
    refine .inr ⟨rfl, ?_⟩
    cases i
    case rdreg a =>
      simp only [Instr.wellFormed, mappedIndices_contains] at hw
      obtain ⟨r, hr⟩ := Option.isSome_iff_exists.1 hw
      obtain rfl := regIdx_of_regOfIdx hr
      exact ⟨_, .inl (execRdreg_regIdx r s)⟩
    case wrreg a b =>
      simp only [Instr.wellFormed] at hw
      cases h : regOfIdx a with
      | none => simp [legalWrite_unmapped h] at hw
      | some r =>
        obtain rfl := regIdx_of_regOfIdx h
        simp only [legalWrite_regIdx, Bool.and_eq_true, beq_iff_eq] at hw
        have := execWrreg_regIdx r b s hw.1 hw.2
        exact ⟨0#32, by simp only [reduceCtorEq, false_and, exists_false, false_or]
                        exact .inr ⟨r, b, rfl, hw.1, hw.2, this⟩⟩
    all_goals
      simp only [Instr.wellFormed, legalFormat, Bool.and_eq_true] at hw
      simp only [exec, execNop, execFxMul, execFxAdd, execFxSub, execFxCmp, execFxDiv, execFxCvt,
        execLfsrProc, execPhProc, execPhSetPeriod, execEnvProc, execEnvStart, execEnvStop, execTgProc,
        execTgReset, execSchProc, execTdProc, execCrdProc, formatLegal, complete]
      try simp only [hw, Bool.and_self, if_true]
      first
        | exact ⟨_, .inl rfl⟩
        | apply Exists.intro
          repeat
            first
              | exact .inl ⟨trivial, rfl⟩
              | exact .inl ⟨_, rfl, rfl⟩
              | exact .inl ⟨_, _, rfl, rfl⟩
              | apply Or.inr

/-- A step is an idle cycle, a reset cycle, a refused word or an executed command. -/
theorem step_cases {s t : State} (h : step s = .next t) :
    t = s.takeCycle.idleCycle ∨ t = s.takeCycle.resetCycle ∨
    (∃ w e, s.portAction = .command w ∧ decode w = .error e ∧ t = s.takeCycle.refuse .illegalOpcode) ∨
    (∃ w i, s.portAction = .command w ∧ decode w = .ok i ∧ exec i s.takeCycle = .next t) := by
  unfold step at h
  split at h
  · injection h with h; exact .inl h.symm
  · injection h with h; exact .inr (.inl h.symm)
  · next w hp =>
    unfold runCommand at h
    split at h
    · next i hd => exact .inr (.inr (.inr ⟨w, i, hp, hd, h⟩))
    · next e hd =>
      cases e
      injection h with h
      exact .inr (.inr (.inl ⟨w, _, hp, hd, h.symm⟩))

end Sys2Proof.Machine
end

