-- ==== Sys2Proof/Laws/PerInstr.lean ====
section
/-! SUPPORT. Per instruction: its encoded word selects its own row of spec/opcode_table.json, by the
row's mask and match (rule R79). -/

namespace Sys2Proof.Laws.EncodeRow

/-- The mask every row of the opcode table has. -/
def tableMask : CmdWord := 0xFF000000000000000000#80

/-- The `match` column of the opcode table. -/
def tableMatch : Instr → CmdWord
  | .nop => 0x00000000000000000000#80
  | .rdreg _ => 0x01000000000000000000#80
  | .wrreg _ _ => 0x02000000000000000000#80
  | .fxAdd _ _ => 0x10000000000000000000#80
  | .fxSub _ _ => 0x11000000000000000000#80
  | .fxMul _ _ _ => 0x12000000000000000000#80
  | .fxDiv _ _ _ => 0x13000000000000000000#80
  | .fxCmp _ _ => 0x14000000000000000000#80
  | .fxCvt _ _ _ => 0x15000000000000000000#80
  | .lfsrProc => 0x20000000000000000000#80
  | .phProc => 0x30000000000000000000#80
  | .phSetPeriod _ _ => 0x31000000000000000000#80
  | .envProc => 0x40000000000000000000#80
  | .envStart => 0x41000000000000000000#80
  | .envStop => 0x42000000000000000000#80
  | .tgProc => 0x50000000000000000000#80
  | .tgReset => 0x51000000000000000000#80
  | .schProc _ => 0x60000000000000000000#80
  | .tdProc _ => 0x70000000000000000000#80
  | .crdProc _ => 0x80000000000000000000#80

/-- The instruction's word selects its row. -/
def Statement (i : Instr) : Prop := encode i &&& tableMask = tableMatch i

/-- The mask keeps `op` and clears the other fields. -/
theorem packCmd_and_mask (op f : BitVec 8) (a b : Word) :
    packCmd op f a b &&& tableMask = packCmd op 0#8 0#32 0#32 := by
  rw [show tableMask = packCmd 0xFF#8 0#8 0#32 0#32 by decide]
  exact packCmd_and_opMask op f a b

theorem nop : Statement (.nop) := packCmd_and_mask 0x00#8 0#8 0#32 0#32
theorem rdreg (a : Word) : Statement (.rdreg a) := packCmd_and_mask 0x01#8 0#8 a 0#32
theorem wrreg (a : Word) (b : Word) : Statement (.wrreg a b) := packCmd_and_mask 0x02#8 0#8 a b
theorem fxAdd (a : Word) (b : Word) : Statement (.fxAdd a b) := packCmd_and_mask 0x10#8 0#8 a b
theorem fxSub (a : Word) (b : Word) : Statement (.fxSub a b) := packCmd_and_mask 0x11#8 0#8 a b
theorem fxMul (f : BitVec 8) (a : Word) (b : Word) : Statement (.fxMul f a b) := packCmd_and_mask 0x12#8 f a b
theorem fxDiv (f : BitVec 8) (a : Word) (b : Word) : Statement (.fxDiv f a b) := packCmd_and_mask 0x13#8 f a b
theorem fxCmp (a : Word) (b : Word) : Statement (.fxCmp a b) := packCmd_and_mask 0x14#8 0#8 a b
theorem fxCvt (f : BitVec 8) (a : Word) (b : Word) : Statement (.fxCvt f a b) := packCmd_and_mask 0x15#8 f a b
theorem lfsrProc : Statement (.lfsrProc) := packCmd_and_mask 0x20#8 0#8 0#32 0#32
theorem phProc : Statement (.phProc) := packCmd_and_mask 0x30#8 0#8 0#32 0#32
theorem phSetPeriod (a : Word) (b : Word) : Statement (.phSetPeriod a b) := packCmd_and_mask 0x31#8 0#8 a b
theorem envProc : Statement (.envProc) := packCmd_and_mask 0x40#8 0#8 0#32 0#32
theorem envStart : Statement (.envStart) := packCmd_and_mask 0x41#8 0#8 0#32 0#32
theorem envStop : Statement (.envStop) := packCmd_and_mask 0x42#8 0#8 0#32 0#32
theorem tgProc : Statement (.tgProc) := packCmd_and_mask 0x50#8 0#8 0#32 0#32
theorem tgReset : Statement (.tgReset) := packCmd_and_mask 0x51#8 0#8 0#32 0#32
theorem schProc (a : Word) : Statement (.schProc a) := packCmd_and_mask 0x60#8 0#8 a 0#32
theorem tdProc (a : Word) : Statement (.tdProc a) := packCmd_and_mask 0x70#8 0#8 a 0#32
theorem crdProc (a : Word) : Statement (.crdProc a) := packCmd_and_mask 0x80#8 0#8 a 0#32

end Sys2Proof.Laws.EncodeRow
end

