-- ==== Sys2Proof/Laws/Units.lean ====
section
/-! SUPPORT. The state after each command by named updates, what one advance of a unit leaves unchanged,
and the integers it computes when no wrap happens. -/

namespace Sys2Proof.Machine

@[simp] theorem envNext_attack (c : Config) (u : Envelope) : (envNext c u).attack = u.attack := by
  unfold envNext; split <;> dsimp only <;> (try split) <;> rfl
@[simp] theorem envNext_decay (c : Config) (u : Envelope) : (envNext c u).decay = u.decay := by
  unfold envNext; split <;> dsimp only <;> (try split) <;> rfl
@[simp] theorem envNext_hold (c : Config) (u : Envelope) : (envNext c u).hold = u.hold := by
  unfold envNext; split <;> dsimp only <;> (try split) <;> rfl

@[simp] theorem schmidtStep_lo (c : Schmidt) (x : Word) : (schmidtStep c x).lo = c.lo := rfl
@[simp] theorem schmidtStep_hi (c : Schmidt) (x : Word) : (schmidtStep c x).hi = c.hi := rfl
@[simp] theorem schmidtStep_last (c : Schmidt) (x : Word) : (schmidtStep c x).last = x := rfl

/-- The level after a comparator step is 0, a full level or the level before. -/
theorem schmidtStep_state_cases (c : Schmidt) (x : Word) :
    (schmidtStep c x).state = 0#32 ∨ (schmidtStep c x).state = one ∨
    (schmidtStep c x).state = minusOne ∨ (schmidtStep c x).state = c.state := by
  rw [schmidtStep_eq]
  dsimp only
  split_ifs <;> simp

/-- The phase after one advance, as an integer, of a correctly used Phasor (R114). -/
theorem phaseNext_toInt (u : Phasor) (h1 : 0 ≤ u.phase.toInt) (h2 : u.phase.toInt ≤ 268435456)
    (h3 : 0 ≤ u.delta.toInt) (h4 : u.delta.toInt ≤ 268435456) :
    (phaseNext u).toInt =
      if 268435456 < u.phase.toInt + u.delta.toInt
      then u.phase.toInt + u.delta.toInt - 268435456
      else u.phase.toInt + u.delta.toInt := by
  unfold phaseNext fxAdd fxSub
  simp only [s32, one_toInt]
  rw [wrap_toInt _ (by omega) (by omega)]
  split <;> rw [wrap_toInt] <;> omega

/-- A correctly used envelope's rise is an integer sum (R128). -/
theorem envUp_toInt (c : Config) (u : Envelope)
    (h1 : -2147483648 ≤ (deltaConstRaw c).toInt * u.attack.toInt)
    (h2 : (deltaConstRaw c).toInt * u.attack.toInt ≤ 2147483647) :
    (envUp c u).toInt = (deltaConstRaw c).toInt * u.attack.toInt := by
  rw [envUp, imul_eq_mul, BitVec.toInt_mul]
  exact Int.bmod_eq_of_le (by norm_num; omega) (by norm_num; omega)

/-- The same of its fall. -/
theorem envDown_toInt (c : Config) (u : Envelope)
    (h1 : -2147483648 ≤ (deltaConstRaw c).toInt * u.decay.toInt)
    (h2 : (deltaConstRaw c).toInt * u.decay.toInt ≤ 2147483647) :
    (envDown c u).toInt = (deltaConstRaw c).toInt * u.decay.toInt := by
  rw [envDown, imul_eq_mul, BitVec.toInt_mul]
  exact Int.bmod_eq_of_le (by norm_num; omega) (by norm_num; omega)

section
variable (s : State) (f : BitVec 8) (a b : Word)

theorem after_nop : after .nop s = s.respond 0#32 := rfl
theorem after_fxAdd : after (.fxAdd a b) s = s.respond (fxAdd a b) := rfl
theorem after_fxSub : after (.fxSub a b) s = s.respond (fxSub a b) := rfl
theorem after_fxCmp : after (.fxCmp a b) s = s.respond (fxCmp a b) := rfl
theorem after_fxMul :
    after (.fxMul f a b) s =
      if formatLegal f.toNat then s.respond (fxMul f.toNat a b) else s.refuse .illegalOperand := by
  simp only [after, exec, execFxMul]; split_ifs <;> rfl
theorem after_fxDiv :
    after (.fxDiv f a b) s =
      if formatLegal f.toNat then s.respond (fxDiv s.cfg f.toNat a b) else s.refuse .illegalOperand := by
  simp only [after, exec, execFxDiv]; split_ifs <;> rfl
theorem after_fxCvt :
    after (.fxCvt f a b) s =
      if formatLegal f.toNat && formatLegal (u32 b) then s.respond (fxCvt f.toNat (u32 b) a)
      else s.refuse .illegalOperand := by
  simp only [after, exec, execFxCvt]; split_ifs <;> rfl
theorem after_lfsrProc :
    after .lfsrProc s =
      (s.setLfsr { s.lfsr with value := lfsrNext s.lfsr }).respond (bitWord (lfsrFeedback s.lfsr)) := rfl
theorem after_phProc :
    after .phProc s = (s.setPh { s.ph with phase := phaseNext s.ph }).respond s.ph.phase := rfl
theorem after_phSetPeriod :
    after (.phSetPeriod a b) s =
      (s.setPh { s.ph with delta := periodDelta s.cfg a b }).respond 0#32 := rfl
theorem after_envProc :
    after .envProc s = (s.setEnv (envNext s.cfg s.env)).respond s.env.phase := rfl
theorem after_envStart :
    after .envStart s = (s.setEnv { s.env with state := .rising }).respond 0#32 := rfl
theorem after_envStop :
    after .envStop s = (s.setEnv { s.env with state := envStopped s.env }).respond 0#32 := rfl
theorem after_tgProc :
    after .tgProc s =
      (s.setTg { s.tg with count := satInc s.tg.count }).respond (tgLevel s.tg (satInc s.tg.count)) := rfl
theorem after_tgReset : after .tgReset s = (s.setTg { s.tg with count := wrap (-1) }).respond 0#32 := rfl
theorem after_schProc :
    after (.schProc a) s = (s.setSch (schmidtStep s.sch a)).respond (schmidtStep s.sch a).state := rfl
theorem after_tdProc :
    after (.tdProc a) s =
      (s.setTd { cmp := schmidtStep s.td.cmp a, lastVal := (schmidtStep s.td.cmp a).state }).respond
        (bitWord (tdRose s.td.lastVal (schmidtStep s.td.cmp a).state)) := rfl
theorem after_crdProc :
    after (.crdProc a) s = (s.setCrd (crdNext (triggered a) s.crd)).respond 0#32 := rfl
theorem after_rdreg_regIdx (r : Reg) : after (.rdreg (regIdx r)) s = s.respond (readReg r s) := by
  rw [after, execRdreg_regIdx]
theorem after_wrreg_regIdx (r : Reg) (v : Word) (hw : regAccess r = .rw) (hv : writeInRange r v = true) :
    after (.wrreg (regIdx r) v) s = (writeReg r v s).respond 0#32 := by
  rw [after, execWrreg_regIdx r v s hw hv]
end

theorem readReg_respond (r : Reg) (s : State) (d : Word) : readReg r (s.respond d) = readReg r s := by
  cases r <;> rfl

theorem afterN_succ (i : Instr) (n : Nat) (s : State) : afterN i (n + 1) s = after i (afterN i n s) := rfl

end Sys2Proof.Machine
end

