-- ==== Sys2Proof/Tests/Slice0.lean ====
section
/-! SUPPORT. Tests: the operand checks, one decoded word per command written out bit by bit from the opcode
map (30_encoding.md R71, R75), at most two steps per command with the results of 95_test_vectors.md, and a
witness for the hypotheses of each statement that has any. -/

namespace Sys2Proof.Tests

open Sys2Proof Sys2Proof.Machine


/-! ### WellFormed refuses each illegal operand (R77) -/

theorem test_wf_refuses_rdreg_unmapped : (.rdreg 0x05#32 : Instr).wellFormed.not := by decide
theorem test_wf_refuses_rdreg_high_bits : (.rdreg 0x80000010#32 : Instr).wellFormed.not := by decide
theorem test_wf_refuses_wrreg_unmapped : (.wrreg 0x72#32 0#32 : Instr).wellFormed.not := by decide
theorem test_wf_refuses_wrreg_read_only : (.wrreg 0x21#32 1#32 : Instr).wellFormed.not := by decide
theorem test_wf_refuses_wrreg_constant : (.wrreg 0x01#32 0#32 : Instr).wellFormed.not := by decide
theorem test_wf_refuses_wrreg_bits_zero : (.wrreg 0x12#32 0#32 : Instr).wellFormed.not := by decide
theorem test_wf_refuses_wrreg_bits_33 : (.wrreg 0x12#32 0x21#32 : Instr).wellFormed.not := by decide
theorem test_wf_refuses_fxMul_format : (.fxMul 32#8 1#32 1#32 : Instr).wellFormed.not := by decide
theorem test_wf_refuses_fxDiv_format : (.fxDiv 255#8 1#32 1#32 : Instr).wellFormed.not := by decide
theorem test_wf_refuses_fxCvt_source : (.fxCvt 32#8 0#32 0#32 : Instr).wellFormed.not := by decide
theorem test_wf_refuses_fxCvt_destination : (.fxCvt 0#8 0#32 32#32 : Instr).wellFormed.not := by decide
theorem test_wf_allows_the_bounds :
    (.fxMul 31#8 1#32 1#32 : Instr).wellFormed && (.fxCvt 31#8 0#32 31#32 : Instr).wellFormed &&
      (.wrreg 0x12#32 1#32 : Instr).wellFormed && (.wrreg 0x12#32 32#32 : Instr).wellFormed &&
      (.rdreg 0x71#32 : Instr).wellFormed := by decide

/-! ### Decoding, bit by bit -/

theorem test_decode_nop :
    decode 0b00000000000000000000000000000000000000000000000000000000000000000000000000000000#80 =
      .ok (.nop) := by rfl
theorem test_decode_rdreg :
    decode 0b00000001000000000000000000000000000000000111000100000000000000000000000000000000#80 =
      .ok (.rdreg 0x71#32) := by rfl
theorem test_decode_wrreg :
    decode 0b00000010000000000000000000000000000000000100000100000000000000000000000000000010#80 =
      .ok (.wrreg 0x41#32 2#32) := by rfl
theorem test_decode_fxAdd :
    decode 0b00010000000000000001000000000000000000000000000000001000000000000000000000000000#80 =
      .ok (.fxAdd 0x10000000#32 0x08000000#32) := by rfl
theorem test_decode_fxSub :
    decode 0b00010001000000001000000000000000000000000000000000000000000000000000000000000001#80 =
      .ok (.fxSub 0x80000000#32 1#32) := by rfl
theorem test_decode_fxMul :
    decode 0b00010010000111000001100000000000000000000000000000001000000000000000000000000000#80 =
      .ok (.fxMul 28#8 0x18000000#32 0x08000000#32) := by rfl
theorem test_decode_fxDiv :
    decode 0b00010011111111110000000000000000000000000000000100000000000000000000000000000010#80 =
      .ok (.fxDiv 255#8 1#32 2#32) := by rfl
theorem test_decode_fxCmp :
    decode 0b00010100000000001000000000000000000000000000000001111111111111111111111111111111#80 =
      .ok (.fxCmp 0x80000000#32 0x7FFFFFFF#32) := by rfl
theorem test_decode_fxCvt :
    decode 0b00010101000100000000000000000001100000000000000000000000000000000000000000011100#80 =
      .ok (.fxCvt 16#8 0x00018000#32 0x1C#32) := by rfl
theorem test_decode_lfsrProc :
    decode 0b00100000000000000000000000000000000000000000000000000000000000000000000000000000#80 =
      .ok (.lfsrProc) := by rfl
theorem test_decode_phProc :
    decode 0b00110000000000000000000000000000000000000000000000000000000000000000000000000000#80 =
      .ok (.phProc) := by rfl
theorem test_decode_phSetPeriod :
    decode 0b00110001000000000000000000000000000000000000001111111111111111111111111111111111#80 =
      .ok (.phSetPeriod 3#32 0xFFFFFFFF#32) := by rfl
theorem test_decode_envProc :
    decode 0b01000000000000000000000000000000000000000000000000000000000000000000000000000000#80 =
      .ok (.envProc) := by rfl
theorem test_decode_envStart :
    decode 0b01000001000000000000000000000000000000000000000000000000000000000000000000000000#80 =
      .ok (.envStart) := by rfl
theorem test_decode_envStop :
    decode 0b01000010000000000000000000000000000000000000000000000000000000000000000000000000#80 =
      .ok (.envStop) := by rfl
theorem test_decode_tgProc :
    decode 0b01010000000000000000000000000000000000000000000000000000000000000000000000000000#80 =
      .ok (.tgProc) := by rfl
theorem test_decode_tgReset :
    decode 0b01010001000000000000000000000000000000000000000000000000000000000000000000000000#80 =
      .ok (.tgReset) := by rfl
theorem test_decode_schProc :
    decode 0b01100000000000000000001111111111111111111111111100000000000000000000000000000000#80 =
      .ok (.schProc 0x03FFFFFF#32) := by rfl
theorem test_decode_tdProc :
    decode 0b01110000000000001111000000000000000000000000000000000000000000000000000000000000#80 =
      .ok (.tdProc 0xF0000000#32) := by rfl
theorem test_decode_crdProc :
    decode 0b10000000000000001111111111111111111111111111111000000000000000000000000000000000#80 =
      .ok (.crdProc 0xFFFFFFFE#32) := by rfl

/-- V-SYS-1 row 2. -/
theorem test_decode_ignores_unread_fields : decode 0x00ABDEADBEEF12345678#80 = .ok .nop := by rfl
/-- V-ERR-2. -/
theorem test_decode_refuses_0x03 :
    decode 0x03000000000000001234#80 = .error (.illegalOpcode 0x03#8) := by rfl
/-- The example of R80. -/
theorem test_encode_is_the_spec_word :
    encode (.fxMul 28#8 0x18000000#32 0x08000000#32) = 0x121C1800000008000000#80 := by decide
/-- A row of the opcode table with its operand bits zero. -/
theorem test_decodeTableWord :
    decodeTableWord 80 0x02000000000000000000 = some (.wrreg 0#32 0#32) := by decide
theorem test_withFetchWord :
    step (State.reset.withFetchWord 80 0x20000000000000000000) = exec .lfsrProc State.reset := by rfl

/-! ### One step of each command (expected values: 95_test_vectors.md) -/

/-- The response of one command. -/
def answers (i : Instr) (s : State) (d : Word) : Bool := (after i s).rsp == ⟨true, .ok, d⟩

/-- The response of one command and one register after it. -/
def leaves (i : Instr) (s : State) (d : Word) (r : Reg) (v : Word) : Bool :=
  answers i s d && readReg r (after i s) == v

/-- A refusal with ILLEGAL_OPERAND, and STATUS after it. -/
def refuses (i : Instr) (s : State) (st : BitVec 3) : Bool :=
  (after i s).rsp == ⟨true, .illegalOperand, 0#32⟩ && (after i s).status == st

/-- V-SYS-1 row 1. -/
theorem test_nop :
    answers .nop State.reset 0#32 := by decide
/-- V-SYS-1 row 6. -/
theorem test_rdreg_dconst :
    answers (.rdreg 0x03#32) State.reset 0x0000045E#32 := by decide
/-- V-ERR-1 row 1. -/
theorem test_rdreg_unmapped :
    refuses (.rdreg 0x05#32) State.reset 5#3 := by decide
/-- V-ENV-6 row 5. -/
theorem test_wrreg_hold_keeps_bit_0 :
    leaves (.wrreg 0x34#32 0xFFFFFFFE#32) State.reset 0#32 .envHold 0#32 := by decide
/-- V-ERR-1 row 9. -/
theorem test_wrreg_bits_33 :
    refuses (.wrreg 0x12#32 0x21#32) State.reset 5#3 := by decide
/-- V-FX-1. -/
theorem test_fxAdd_wraps :
    answers (.fxAdd 0x7FFFFFFF#32 1#32) State.reset 0x80000000#32 := by decide
/-- V-FX-1. -/
theorem test_fxAdd_wraps_down :
    answers (.fxAdd 0x80000000#32 0xFFFFFFFF#32) State.reset 0x7FFFFFFF#32 := by decide
/-- V-FX-1. -/
theorem test_fxSub_order :
    answers (.fxSub 0x10000000#32 0x18000000#32) State.reset 0xF8000000#32 := by decide
/-- V-FX-1. -/
theorem test_fxSub_wraps :
    answers (.fxSub 0#32 0x80000000#32) State.reset 0x80000000#32 := by decide
/-- V-FX-1: the product -1 floors to -1 raw. -/
theorem test_fxMul_floors :
    answers (.fxMul 28#8 0xFFFFFFFF#32 1#32) State.reset 0xFFFFFFFF#32 := by decide
/-- V-FX-1. -/
theorem test_fxMul_31 :
    answers (.fxMul 31#8 0x80000000#32 0x80000000#32) State.reset 0x80000000#32 := by decide
/-- V-FX-1: toward zero. -/
theorem test_fxDiv_truncates :
    answers (.fxDiv 28#8 0xF0000000#32 0x30000000#32) State.reset 0xFAAAAAAB#32 := by decide
/-- V-FX-1. -/
theorem test_fxDiv_overflows :
    answers (.fxDiv 0#8 0x80000000#32 0xFFFFFFFF#32) State.reset 0x80000000#32 := by decide
/-- V-FX-1. -/
theorem test_fxCmp_signed :
    answers (.fxCmp 0x80000000#32 0x7FFFFFFF#32) State.reset 0xFFFFFFFF#32 := by decide
/-- V-FX-1. -/
theorem test_fxCmp_greater :
    answers (.fxCmp 0x10000000#32 0x08000000#32) State.reset 1#32 := by decide
/-- V-FX-1: -2.75 to -3. -/
theorem test_fxCvt_floors :
    answers (.fxCvt 28#8 0xD4000000#32 0#32) State.reset 0xFFFFFFFD#32 := by decide
/-- V-FX-1. -/
theorem test_fxCvt_up_wraps :
    answers (.fxCvt 0#8 8#32 0x1C#32) State.reset 0x80000000#32 := by decide
/-- V-LFSR-5 row 4. -/
theorem test_lfsrProc_tap_beyond_width :
    leaves .lfsrProc { State.reset with lfsr := { value := 0x15#32, mask := 0x10#32, bits := 4#6 } }
      0#32 .lfsrValue 2#32 := by decide
/-- V-LFSR-6 row 4. -/
theorem test_lfsrProc_seed_beyond_width :
    leaves .lfsrProc { State.reset with lfsr := { value := 0x7FFF8000#32, mask := 1#32, bits := 8#6 } }
      1#32 .lfsrValue 0x3FFFC080#32 := by decide
/-- V-PH-1 row 5. -/
theorem test_phProc_stores_exactly_one :
    leaves .phProc { State.reset with ph := { phase := 0x0C000000#32, delta := 0x04000000#32 } }
      0x0C000000#32 .phPhase 0x10000000#32 := by decide
/-- V-PH-1 row 6. -/
theorem test_phProc_wraps_strictly_above :
    leaves .phProc { State.reset with ph := { phase := 0x10000000#32, delta := 0x04000000#32 } }
      0x10000000#32 .phPhase 0x04000000#32 := by decide
/-- V-PH-5. -/
theorem test_phSetPeriod_truncates_first :
    leaves (.phSetPeriod 7#32 3#32) State.reset 0#32 .phDelta 0x06DB6DB6#32 := by decide
/-- V-PH-5. -/
theorem test_phSetPeriod_negative :
    leaves (.phSetPeriod 0xFFFFFFFC#32 1#32) State.reset 0#32 .phDelta 0xFC000000#32 := by decide
/-- V-ENV-1 row 9. -/
theorem test_envProc_rise_clamps_and_falls :
    let t := after .envProc { State.reset with env := ⟨0x0D1A0000#32, .rising, 0x10000#32, 0x20000#32, false⟩ }
    (t.rsp.data, t.env.phase, t.env.state) = (0x0D1A0000#32, 0x10000000#32, .falling) := by decide
/-- V-ENV-2 row 15. -/
theorem test_envProc_fall_ends :
    let t := after .envProc { State.reset with env := ⟨0x07440000#32, .falling, 0x10000#32, 0x20000#32, true⟩ }
    (t.rsp.data, t.env.phase, t.env.state) = (0x07440000#32, 0#32, .waiting) := by decide
/-- V-ENV-3 row 10. -/
theorem test_envStart_keeps_the_phase :
    let t := after .envStart { State.reset with env := ⟨0x07440000#32, .falling, 0x10000#32, 0x10000#32, false⟩ }
    (t.env.phase, t.env.state) = (0x07440000#32, .rising) := by decide
/-- V-ENV-2 row 13. -/
theorem test_envStop_held :
    let t := after .envStop { State.reset with env := ⟨0x10000000#32, .rising, 0x10000#32, 0x20000#32, true⟩ }
    (t.env.phase, t.env.state) = (0x10000000#32, .falling) := by decide
/-- V-ENV-1 row 4. -/
theorem test_envStop_waiting :
    leaves .envStop State.reset 0#32 .envState 0#32 := by decide
/-- V-TG-1 row 10. -/
theorem test_tgProc_emits :
    leaves .tgProc { State.reset with tg := ⟨2#32, 2#32, 3#32, 0x10000000#32⟩ } 0x10000000#32 .tgCount 3#32 := by decide
/-- V-TG-4 row 4: the upper bound does not wrap. -/
theorem test_tgProc_saturated_in_the_window :
    leaves .tgProc { State.reset with tg := ⟨0x7FFFFFFF#32, 0x7FFFFFFD#32, 10#32, 0x10000000#32⟩ } 0x10000000#32 .tgCount 0x7FFFFFFF#32 := by decide
/-- V-TG-1 row 6. -/
theorem test_tgReset :
    leaves .tgReset State.reset 0#32 .tgCount 0xFFFFFFFF#32 := by decide
/-- V-SCH-2 row 7. -/
theorem test_schProc_on_the_threshold :
    leaves (.schProc 0x04000000#32) { State.reset with sch := ⟨0x04000000#32, 0x08000000#32, 0x0C000000#32, 0x10000000#32⟩ } 0x10000000#32 .schLast 0x04000000#32 := by decide
/-- V-SCH-4 row 9. -/
theorem test_schProc_zero_counts_as_negative :
    leaves (.schProc 0#32) { State.reset with sch := ⟨0xF8000000#32, 0xFC000000#32, 0xF0000000#32, 0#32⟩ } 0xF0000000#32 .schState 0xF0000000#32 := by decide
/-- V-TD-2 row 5. -/
theorem test_tdProc_rise_from_minus_one :
    leaves (.tdProc 0xF4000000#32) { State.reset with td := ⟨⟨0xF8000000#32, 0xFC000000#32, 0xFE000000#32, 0xF0000000#32⟩, 0xF0000000#32⟩ } 1#32 .tdLastVal 0#32 := by decide
/-- V-TD-3 row 1. -/
theorem test_tdProc_leaves_the_other_comparator :
    leaves (.tdProc 0x0C000000#32) State.reset 1#32 .schState 0#32 := by decide
/-- V-CRD-2 row 7. -/
theorem test_crdProc_ignores_high_bits :
    leaves (.crdProc 0xFFFFFFFE#32) { State.reset with crd := { count := 0#32, interval := 5#32 } }
      0#32 .crdCount 1#32 := by decide
/-- V-CRD-1 row 5. -/
theorem test_crdProc_trigger :
    leaves (.crdProc 1#32) { State.reset with crd := { count := 3#32, interval := 0#32 } }
      0#32 .crdInterval 3#32 := by decide

/-- V-ERR-2: the first refusal is an illegal opcode, and a later refusal does not change STATUS. -/
theorem test_illegal_opcode_then_operand :
    let t := (commandStep 0xFF000000000000000000#80 State.reset).1
    t.rsp = ⟨true, .illegalOpcode, 0#32⟩ ∧ t.status = 3#3 ∧
      (commandStep 0x02000000002000000000#80 t).1.status = 3#3 := by decide

/-- A cycle with `rst = 1` and a command presented resets and executes nothing (R205). -/
theorem test_reset_overrides_a_command :
    step { State.reset with status := 5#3, port := [⟨true, true, 0x20000000000000000000#80⟩] } =
      .next State.reset := by rfl

/-- A cycle without a command shows zero outputs (R70). -/
theorem test_idle_cycle :
    step { State.reset with rsp := ⟨true, .illegalOperand, 0#32⟩ } = .next State.reset := by rfl

/-! ### Witnesses: concrete values that meet the hypotheses of a statement, clause by clause, at the bounds -/

/-- Both clauses of UnusedOpcodesAreIllegal, at opcodes next to each other. -/
theorem witness_UnusedOpcodesAreIllegal :
    (cmdOp 0x02000000000000000000#80).toNat = 0x02 ∧ (cmdOp 0x03000000000000000000#80).toNat = 0x03 := by
  decide

/-- Two different words that agree on what a command of shape A reads. -/
theorem witness_UnreadFieldsHaveNoEffect :
    let w : CmdWord := 0x01FF00000071DEADBEEF#80
    let v : CmdWord := 0x01000000007100000000#80
    w ≠ v ∧ cmdOp w = cmdOp v ∧ (cmdOp w).toNat ∉ [0x12, 0x13, 0x15] ∧ cmdA w = cmdA v ∧
      (cmdOp w).toNat ∉ [0x02, 0x10, 0x11, 0x12, 0x13, 0x14, 0x15, 0x31] := by decide

theorem witness_EncodeOfDecodedKeepsTheFieldsRead :
    decode 0x121C1800000008000000#80 = .ok (.fxMul 28#8 0x18000000#32 0x08000000#32) := by rfl

/-- A reset state with two cycles' inputs presented. -/
def presented (c : PortCycle) : State := { State.reset with port := [c, ⟨false, false, 0#80⟩] }

theorem witness_StepRunsTheDecodedCommand :
    (presented (presents 0x51000000000000000000#80)).port =
        ⟨false, true, 0x51000000000000000000#80⟩ :: [⟨false, false, 0#80⟩] ∧
      decode 0x51000000000000000000#80 = .ok .tgReset := ⟨rfl, rfl⟩

theorem witness_CycleWithoutCommandHoldsTheState :
    State.reset.port = [] ∧
      (presented ⟨false, false, 7#80⟩).port = ⟨false, false, 7#80⟩ :: [⟨false, false, 0#80⟩] := ⟨rfl, rfl⟩

theorem witness_ResetCycleGivesTheResetState :
    (presented ⟨true, true, 7#80⟩).port = ⟨true, true, 7#80⟩ :: [⟨false, false, 0#80⟩] := rfl

theorem witness_EveryCommandIsATotalStep :
    (commandStep 0x03000000000000000000#80 State.reset).2.status ≠ .ok := by decide

theorem witness_RefusedCommandsChangeOnlyStatus :
    (Instr.rdreg 0x04#32).wellFormed = false ∧
      decode 0x81000000000000000000#80 = .error (.illegalOpcode 0x81#8) := ⟨by decide, rfl⟩

theorem witness_OnlyIllegalOperandsAreRefused :
    (Instr.fxCvt 31#8 0#32 31#32).wellFormed = true ∧ (Instr.fxCvt 31#8 0#32 32#32).wellFormed = false := by
  decide

/-- A state that holds an error, with a further refused command presented; and a state that holds none. -/
theorem witness_StatusKeepsTheFirstError :
    let s : State := { presented (presents 0x03000000000000000000#80) with status := 5#3 }
    (s.status.getLsbD 0 = true ∧ s.portAction ≠ .reset ∧ (∃ t, step s = .next t) ∧ StatusOk s.status) ∧
      State.reset.status.getLsbD 0 = false ∧
      (∃ t, runCommand 0x03000000000000000000#80 State.reset = .next t ∧ t.rsp.status = .illegalOpcode) ∧
      (∃ t, runCommand 0x01000000000500000000#80 State.reset = .next t ∧ t.rsp.status = .illegalOperand) ∧
      (∃ t, runCommand 0#80 State.reset = .next t ∧ t.rsp.status = .ok) :=
  ⟨⟨by decide, by decide, ⟨_, rfl⟩, by decide⟩, by decide, ⟨_, rfl, rfl⟩, ⟨_, rfl, rfl⟩, ⟨_, rfl, rfl⟩⟩

/-- FxMulIsTheShiftedDoubleWidthProduct and FxDivTruncatesTheScaledQuotient: the legal and the illegal format
next to each other, and a divisor that is not 0. -/
theorem witness_legal_and_illegal_format : (31#8).toNat < 32 ∧ 32 ≤ (32#8).toNat ∧ 1#32 ≠ 0#32 := by decide

theorem witness_FixedPointLaws :
    (30#8).toNat ≤ 30 ∧ (7#32) ≠ 0x80000000#32 ∧ (0xFFFFFFFE#32) ≠ 0x80000000#32 ∧ (0xFFFFFFFE#32) ≠ 0#32 := by
  decide

theorem witness_FxCmpIsTheSignedOrder :
    (0x80000000#32).slt 0x7FFFFFFF#32 = true ∧ (5#32 = 5#32) ∧ (0xFFFFFFFF#32).slt 0#32 = true := by decide

/-- FX_CVT: formats at both ends, the equal ones under the first clause. -/
theorem witness_FxCvtShiftsBetweenFormats :
    ((0#8).toNat ≤ (31#32).toNat ∧ (31#8).toNat ≤ (31#32).toNat) ∧
      ((30#32).toNat < (31#8).toNat) ∧ (32 ≤ (32#8).toNat ∨ 32 ≤ (0#32).toNat) ∧
      (32 ≤ (0#8).toNat ∨ 32 ≤ (32#32).toNat) := by decide

/-- The least denominator. -/
theorem witness_LiteralRoundsHalfAwayFromZero : 0 < (1 : Nat) := by decide

/-- DeltaConstIsTheNearestRaw and ResetMeetsTheInvariant: the reference build and both bounds of R9. -/
theorem witness_Config_WF : Config.reference.WF ∧ (Config.mk 1 []).WF ∧ (Config.mk 2147483647 []).WF := by
  decide

theorem witness_PhSetPeriodScalesTheReciprocal :
    0 < (1#32).toInt ∧ (0xFFFFFFFF#32).toInt < 0 ∧ (0#32 : Word) = 0#32 := by decide

/-- A phase at 1.0 with a delta of 1.0, and a period of one sample: the bounds. -/
theorem witness_PhasorStaysInTheClosedUnitInterval :
    (let s : State := { State.reset with ph := ⟨0x10000000#32, 0x10000000#32⟩ }
     0 ≤ s.ph.phase.toInt ∧ s.ph.phase.toInt ≤ 268435456 ∧ 0 ≤ s.ph.delta.toInt ∧
       s.ph.delta.toInt ≤ 268435456) ∧
    1 ≤ (1#32).toInt ∧ 0 ≤ (1#32).toInt ∧ (1#32).toInt ≤ (1#32).toInt := by decide

theorem witness_PhasorWrapCount :
    (let s : State := { State.reset with ph := ⟨0#32, 0x0FFFFFFF#32⟩ }
     s.ph.phase = 0#32 ∧ 0 < s.ph.delta.toInt ∧ s.ph.delta.toInt < 268435456) ∧
    State.reset.ph.phase = 0#32 ∧ 1 ≤ (3#32).toInt ∧ (3#32).toInt < (8#32).toInt ∧
    ((8#32).toInt - 1) * (3#32).toInt < 268435456 := by decide

/-- The deltas 1.0 and 2.0; the most negative delta and its one call within -2^31, and R113's delta at its last
call; a phase of 0 and one whose sum is -2^31 itself. -/
theorem witness_PhasorOutsideItsRangeIsNotCorrected :
    (let s : State := { State.reset with ph := ⟨0#32, 0x10000000#32⟩ }
     s.ph.phase = 0#32 ∧ s.ph.delta = 0x10000000#32) ∧
    (let s : State := { State.reset with ph := ⟨0#32, 0x20000000#32⟩ }
     s.ph.phase = 0#32 ∧ s.ph.delta = 0x20000000#32) ∧
    (let s : State := { State.reset with ph := ⟨0#32, 0x80000000#32⟩ }
     s.ph.phase = 0#32 ∧ s.ph.delta.toInt < 0 ∧ -2147483648 ≤ ((1 : Nat) : Int) * s.ph.delta.toInt) ∧
    (let s : State := { State.reset with ph := ⟨0#32, 0xFC000000#32⟩ }
     s.ph.phase = 0#32 ∧ s.ph.delta.toInt < 0 ∧ -2147483648 ≤ ((32 : Nat) : Int) * s.ph.delta.toInt) ∧
    (let s : State := { State.reset with ph := ⟨0#32, 0xFFFFFFFF#32⟩ }
     s.ph.phase.toInt ≤ 0 ∧ s.ph.delta.toInt < 0 ∧ -2147483648 ≤ s.ph.phase.toInt + s.ph.delta.toInt) ∧
    (let s : State := { State.reset with ph := ⟨0x80000001#32, 0xFFFFFFFF#32⟩ }
     s.ph.phase.toInt ≤ 0 ∧ s.ph.delta.toInt < 0 ∧
       -2147483648 ≤ s.ph.phase.toInt + s.ph.delta.toInt) := by decide

/-- An envelope in the given state and phase, with the speeds of V-ENV-1. -/
def envelopeIn (e : EnvState) (phase : Word) (hold : Bool) : State :=
  { State.reset with
    env := { phase := phase, state := e, attack := 0x10000#32, decay := 0x20000#32, hold := hold } }

theorem witness_EnvStartAndEnvStop :
    (let s := envelopeIn .rising 0#32 true; s.env.state = .rising ∧ s.env.hold = true) ∧
    (let s := envelopeIn .falling 0#32 true; ¬ (s.env.state = .rising ∧ s.env.hold = true)) := by decide

theorem witness_EnvProcAdvancesTheEnvelope :
    (envelopeIn .rising 0#32 true).env.state = .rising ∧ (envelopeIn .falling 0#32 true).env.state = .falling ∧
      (envelopeIn .waiting 0#32 true).env.state = .waiting := by decide

/-- Each transition of the table happens. -/
theorem witness_EnvelopeTransitionsAreTheTables :
    (after .envStart (envelopeIn .waiting 0#32 false)).env.state = .rising ∧
    (after .envStop (envelopeIn .rising 0#32 true)).env.state = .falling ∧
    (after .envProc (envelopeIn .rising 0x0D1A0000#32 false)).env.state = .falling ∧
    (after .envProc (envelopeIn .falling 0x07440000#32 false)).env.state = .waiting ∧
    exec .envStart State.reset = .next (after .envStart State.reset) :=
  ⟨by decide, by decide, by decide, by decide, rfl⟩

theorem witness_EnvelopeRiseAndFallTakeCountedCalls :
    (let s := envelopeIn .rising 0#32 false
     s.env.state = .rising ∧ s.env.hold = false ∧ s.env.phase = 0#32 ∧
       0 < (deltaConstRaw s.cfg).toInt * s.env.attack.toInt ∧
       (deltaConstRaw s.cfg).toInt * s.env.attack.toInt ≤ 268435456 ∧
       ((3 : Nat) : Int) ≤ 268435456 / ((deltaConstRaw s.cfg).toInt * s.env.attack.toInt)) ∧
    (let s := envelopeIn .falling 0x10000000#32 false
     s.env.state = .falling ∧ s.env.phase = 0x10000000#32 ∧
       0 < (deltaConstRaw s.cfg).toInt * s.env.decay.toInt ∧
       (deltaConstRaw s.cfg).toInt * s.env.decay.toInt ≤ 268435456 ∧
       ((1 : Nat) : Int) < (268435456 + (deltaConstRaw s.cfg).toInt * s.env.decay.toInt - 1) /
         ((deltaConstRaw s.cfg).toInt * s.env.decay.toInt)) := by decide

theorem witness_HeldEnvelopeRisesUntilStopped : (envelopeIn .waiting 0#32 true).env.hold = true := by decide

/-- ENV_PROC at full level with the largest speeds of R128; an ENV_STOP with speeds far outside them; a cycle that
presents ENV_PROC; and the largest speed of the reference build. -/
theorem witness_EnvelopePhaseStaysInRange :
    (let s : State := { State.reset with env := ⟨0x10000000#32, .rising, 1680722#32, 1680722#32, false⟩ }
     exec .envProc s = .next (after .envProc s) ∧ s.EnvInRange ∧
       0 ≤ (deltaConstRaw s.cfg * s.env.attack).toInt ∧
       (deltaConstRaw s.cfg * s.env.attack).toInt ≤ 7 * 268435456 - 1 ∧
       0 ≤ (deltaConstRaw s.cfg * s.env.decay).toInt ∧
       (deltaConstRaw s.cfg * s.env.decay).toInt ≤ 7 * 268435456) ∧
    (let s : State := { State.reset with env := ⟨0x10000000#32, .rising, 0xFFFFFFFF#32, 0xFFFFFFFF#32, true⟩ }
     exec .envStop s = .next (after .envStop s) ∧ s.EnvInRange ∧
       (deltaConstRaw s.cfg * s.env.attack).toInt < 0) ∧
    (let s := presented (presents 0x40000000000000000000#80)
     (∃ t, step s = .next t) ∧ s.EnvInRange ∧ s.portAction = .command 0x40000000000000000000#80 ∧
       decode 0x40000000000000000000#80 = .ok .envProc ∧
       0 ≤ (deltaConstRaw s.cfg * s.env.attack).toInt ∧
       (deltaConstRaw s.cfg * s.env.attack).toInt ≤ 7 * 268435456 - 1 ∧
       0 ≤ (deltaConstRaw s.cfg * s.env.decay).toInt ∧
       (deltaConstRaw s.cfg * s.env.decay).toInt ≤ 7 * 268435456) ∧
    0 < (deltaConstRaw Config.reference).toInt ∧ 0 ≤ (1680722#32).toInt ∧
    (1680722#32).toInt ≤ (7 * 268435456 - 1) / (deltaConstRaw Config.reference).toInt :=
  ⟨⟨rfl, by decide⟩, ⟨rfl, by decide⟩, ⟨⟨_, rfl⟩, by decide, rfl, rfl, by decide⟩, by decide⟩

/-- LfsrShiftsAndInjectsTheInvertedParity and DefaultMaskLfsrIsASquareWave: widths at both ends, with the
default mask from value 0. -/
theorem witness_Lfsr_width :
    (let s : State := { State.reset with lfsr := ⟨0#32, 1#32, 1#6⟩ }
     1 ≤ s.lfsr.bits.toNat ∧ s.lfsr.bits.toNat ≤ 32 ∧ s.lfsr.mask = 1#32 ∧ s.lfsr.value = 0#32) ∧
    (let s : State := { State.reset with lfsr := ⟨0#32, 1#32, 32#6⟩ }
     1 ≤ s.lfsr.bits.toNat ∧ s.lfsr.bits.toNat ≤ 32 ∧ s.lfsr.mask = 1#32 ∧ s.lfsr.value = 0#32) := by decide

/-- A seed with every bit set above the width. -/
theorem witness_SeedBitsAboveTheWidthDrain :
    let s : State := { State.reset with lfsr := ⟨0xFFFFFFFF#32, 1#32, 1#6⟩ }
    1 ≤ s.lfsr.bits.toNat ∧ s.lfsr.bits.toNat ≤ 32 ∧ 32 ≤ 32 ∧ s.lfsr.bits.toNat ≤ 31 := by decide

/-- An input on each edge of the band, and the reset thresholds. -/
theorem witness_ComparatorGuarantees :
    let s := State.reset
    (s.sch.lo.toInt ≤ (0x04000000#32).toInt ∧ (0x08000000#32).toInt ≤ s.sch.hi.toInt) ∧
    (s.td.cmp.lo.toInt ≤ (0x04000000#32).toInt ∧ (0x08000000#32).toInt ≤ s.td.cmp.hi.toInt) ∧
    0 ≤ s.sch.hi.toInt ∧ s.sch.state ≠ 0xF0000000#32 ∧ 0 ≤ s.td.cmp.hi.toInt ∧
    s.td.cmp.state ≠ 0xF0000000#32 := by decide

/-- A rise, then a call that keeps the level. -/
theorem witness_TdReportsEachRiseOnce :
    let s := State.reset
    s.td.lastVal = s.td.cmp.state ∧
      s.td.cmp.state.toInt < (after (.tdProc 0x0C000000#32) s).td.cmp.state.toInt ∧
      (after (.tdProc 0x06000000#32) (after (.tdProc 0x0C000000#32) s)).td.cmp.state =
        (after (.tdProc 0x0C000000#32) s).td.cmp.state := by decide

/-- Windows that end at 5 and at exactly 2^31 - 1, one that ends at 2^31, and the largest delay: a call in each
clause, at its bounds. -/
theorem witness_TrigGenPulseShape :
    (let s : State := { State.reset with tg := ⟨0#32, 2#32, 3#32, 0x10000000#32⟩ }
     0 ≤ s.tg.delay.toInt ∧ ((2 : Nat) : Int) ≤ s.tg.delay.toInt ∧ s.tg.delay.toInt < 2147483647 ∧
       s.tg.delay.toInt < ((3 : Nat) : Int) ∧ ((4 : Nat) : Int) < s.tg.delay.toInt + s.tg.width.toInt ∧
       s.tg.delay.toInt + s.tg.width.toInt ≤ ((5 : Nat) : Int)) ∧
    (let s : State := { State.reset with tg := ⟨0#32, 0x7FFFFFFD#32, 2#32, 1#32⟩ }
     0 ≤ s.tg.delay.toInt ∧ s.tg.delay.toInt + s.tg.width.toInt = 2147483647) ∧
    (let s : State := { State.reset with tg := ⟨0#32, 0x7FFFFFFD#32, 3#32, 1#32⟩ }
     0 ≤ s.tg.delay.toInt ∧ s.tg.delay.toInt < 2147483647 ∧
       s.tg.delay.toInt + s.tg.width.toInt ≤ ((2147483648 : Nat) : Int) ∧
       s.tg.delay.toInt + s.tg.width.toInt = 2147483648) ∧
    (let s : State := { State.reset with tg := ⟨0#32, 0x7FFFFFFF#32, 3#32, 1#32⟩ }
     0 ≤ s.tg.delay.toInt ∧ s.tg.delay.toInt = 2147483647) := by decide

/-- The saturated counter with window ends 2^31 - 1 and 2^31, which meet at the boundary, and with the largest
delay. -/
theorem witness_TrigGenIsSilentFromReset :
    (let s : State := { State.reset with tg := ⟨0x7FFFFFFF#32, 0x7FFFFFFD#32, 2#32, 1#32⟩ }
     s.tg.count = 0x7FFFFFFF#32 ∧
       (s.tg.delay.toInt + s.tg.width.toInt ≤ 2147483647 ∨ 2147483647 ≤ s.tg.delay.toInt)) ∧
    (let s : State := { State.reset with tg := ⟨0x7FFFFFFF#32, 0x7FFFFFFD#32, 3#32, 1#32⟩ }
     s.tg.count = 0x7FFFFFFF#32 ∧
       ¬ (s.tg.delay.toInt + s.tg.width.toInt ≤ 2147483647 ∨ 2147483647 ≤ s.tg.delay.toInt)) ∧
    (let s : State := { State.reset with tg := ⟨0x7FFFFFFF#32, 0x7FFFFFFF#32, 10#32, 1#32⟩ }
     s.tg.count = 0x7FFFFFFF#32 ∧
       (s.tg.delay.toInt + s.tg.width.toInt ≤ 2147483647 ∨ 2147483647 ≤ s.tg.delay.toInt)) := by decide

/-- CrdProcCountsOrRecords and ClockRateMeasuresThePeriodLessOne: an operand that triggers and one whose high
bits alone are set. -/
theorem witness_CrdProc_trigger : (0x00000001#32).getLsbD 0 = true ∧ (0xFFFFFFFE#32).getLsbD 0 = false := by decide

theorem witness_NopChangesNothing :
    (⟨false, false, 0#80⟩ : PortCycle).rst = false ∧ (⟨false, false, 0#80⟩ : PortCycle).cmdValid = false := by
  decide

theorem witness_RdregReturnsEachMappedRegister :
    (0x04#32).toNat ∉ mappedIndices ∧ (0x72#32).toNat ∉ mappedIndices := by decide

/-- Each way a WRREG is refused, and both ends of LFSR_BITS. -/
theorem witness_WrregWritesEachWritableRegister :
    (0x00#32).toNat ∉ writableIndices ∧ (0x21#32).toNat ∉ writableIndices ∧
      (0x80000010#32).toNat ∉ writableIndices ∧ (0#32).toNat < 1 ∧ 32 < (33#32).toNat ∧
      1 ≤ (1#32).toNat ∧ (32#32).toNat ≤ 32 := by decide

theorem witness_WrregThenRdregReadsItBack :
    legalWrite (regIdx .lfsrBits).toNat (32#32).toNat = true ∧
      legalWrite (regIdx .envHold).toNat (0xFFFFFFFE#32).toNat = true ∧ Reg.envHold ≠ .lfsrBits := by decide

/-- Two states that differ, in the port's inputs to come, and read alike. -/
theorem witness_RegistersAreFullyObservable :
    State.reset ≠ presented (presents 0#80) ∧
      ∀ r : Reg, (after (.rdreg (regIdx r)) State.reset).rsp =
        (after (.rdreg (regIdx r)) (presented (presents 0#80))).rsp :=
  ⟨by decide, fun r => by cases r <;> rfl⟩

theorem witness_OnlyTheListedCommandsWriteARegister :
    exec .lfsrProc State.reset = .next (after .lfsrProc State.reset) ∧ mayWrite .lfsrProc .lfsrMask = false :=
  ⟨rfl, rfl⟩

theorem witness_CommandsOfDifferentUnitsCommute :
    unitOf .lfsrProc ≠ unitOf (.fxMul 32#8 0#32 0#32) ∧ unitOf .lfsrProc ≠ .system ∧
      unitOf (.fxMul 32#8 0#32 0#32) ≠ .system := by decide

theorem witness_PseudoInstructionsHaveTheirEffect :
    1 ≤ (32#32).toNat ∧ (32#32).toNat ≤ 32 ∧ (31#8).toNat < 32 := by decide

/-- The reset state meets the invariant, and steps. -/
theorem witness_EveryStepKeepsTheInvariant :
    State.reset.Inv ∧ step State.reset = .next State.reset :=
  ⟨⟨by decide, by decide, by decide, by decide, by decide, by decide, by decide, by decide, by decide⟩, rfl⟩

end Sys2Proof.Tests
end

section
/-! PROOFS of the scope family (00_scope.md): the step function is total and blind to the port (R4), and the
literal function rounds to the nearest integer (R17), DELTA_CONST_RAW in particular (R10). -/

namespace Sys2Proof.Machine

/-! ### The step function of R4 -/

section
variable {w : CmdWord} {s : State} {i : Instr}

theorem runCommand_of_decode_ok (h : decode w = .ok i) : runCommand w s = .next (after i s) := by
  simp only [runCommand, h, exec_eq_after]

theorem runCommand_of_decode_error {e : DecodeError} (h : decode w = .error e) :
    runCommand w s = .next (s.refuse .illegalOpcode) := by
  simp only [runCommand, h]
  rfl

theorem commandStep_of_decode_ok (h : decode w = .ok i) :
    commandStep w s = (after i s, (after i s).rsp) := by
  simp only [commandStep, runCommand_of_decode_ok h]

theorem commandStep_of_decode_error {e : DecodeError} (h : decode w = .error e) :
    commandStep w s = (s.refuse .illegalOpcode, (s.refuse .illegalOpcode).rsp) := by
  simp only [commandStep, runCommand_of_decode_error h]

end

/-- Every command word has a next state, an undecodable one included (R4, R186). -/
theorem runCommand_next (w : CmdWord) (s : State) : ∃ t, runCommand w s = .next t := by
  cases h : decode w with
  | ok i => exact ⟨_, runCommand_of_decode_ok h⟩
  | error e => exact ⟨_, runCommand_of_decode_error h⟩

/-- Every clock cycle has a next state (R70). -/
theorem step_next (s : State) : ∃ t, step s = .next t := by
  unfold step
  split
  · exact ⟨_, rfl⟩
  · exact ⟨_, rfl⟩
  · exact runCommand_next _ _

/-! ### Which commands are refused -/

/-- A RDREG with legal operands names a mapped register. -/
theorem exists_reg_of_rdreg_wellFormed {a : Word} (h : (Instr.rdreg a).wellFormed = true) :
    ∃ r, a = regIdx r := by
  simp only [Instr.wellFormed, mappedIndices_contains] at h
  obtain ⟨r, hr⟩ := Option.isSome_iff_exists.1 h
  exact ⟨r, (regIdx_of_regOfIdx hr).symm⟩

/-- A WRREG with legal operands names a writable register and a value in its range. -/
theorem exists_reg_of_wrreg_wellFormed {a b : Word} (h : (Instr.wrreg a b).wellFormed = true) :
    ∃ r, a = regIdx r ∧ regAccess r = .rw ∧ writeInRange r b = true := by
  simp only [Instr.wellFormed] at h
  cases hr : regOfIdx a with
  | none => simp [legalWrite_unmapped hr] at h
  | some r =>
    obtain rfl := regIdx_of_regOfIdx hr
    simp only [legalWrite_regIdx, Bool.and_eq_true, beq_iff_eq] at h
    exact ⟨r, rfl, h⟩

theorem after_of_not_wellFormed (i : Instr) (s : State) (h : i.wellFormed = false) :
    after i s = s.refuse .illegalOperand := by
  simp only [after, exec_of_not_wellFormed i s h]

/-- Legal operands are answered with status OK (R72). -/
theorem after_rsp_status_of_wellFormed (i : Instr) (s : State) (h : i.wellFormed = true) :
    (after i s).rsp.status = .ok := by
  have executed : ∀ (u : State) (d : Word), exec i s = .next (u.respond d) →
      (after i s).rsp.status = .ok := by
    intro u d hu
    simp only [after, hu]
    rfl
  obtain ⟨hw, -⟩ | ⟨-, d, hd⟩ := exec_cases i s
  · simp [h] at hw
  · obtain hu | ⟨-, hu⟩ | ⟨-, hu⟩ | ⟨_, _, -, hu⟩ | ⟨-, hu⟩ | ⟨-, hu⟩ | ⟨-, hu⟩ | ⟨-, hu⟩ | ⟨-, hu⟩ |
      ⟨_, -, hu⟩ | ⟨_, -, hu⟩ | ⟨_, -, hu⟩ | ⟨_, _, -, -, -, hu⟩ := hd <;> exact executed _ d hu

/-- A command that is not answered with status OK is a refusal (R185). -/
theorem commandStep_fst_of_status_ne_ok (w : CmdWord) (s : State)
    (h : (commandStep w s).2.status ≠ .ok) : ∃ e, commandStep w s = (s.refuse e, (s.refuse e).rsp) := by
  cases hd : decode w with
  | error e => exact ⟨_, commandStep_of_decode_error hd⟩
  | ok i =>
    rw [commandStep_of_decode_ok hd] at h ⊢
    cases hw : i.wellFormed with
    | true => exact absurd (after_rsp_status_of_wellFormed i s hw) h
    | false => exact ⟨_, by rw [after_of_not_wellFormed i s hw]⟩

/-! ### The inputs to come and the last outputs have no effect -/

section
variable (s : State) (p : List PortCycle) (r : Response)

theorem readReg_port_rsp (q : Reg) : readReg q { s with port := p, rsp := r } = readReg q s := by
  cases q <;> rfl

theorem writeReg_port_rsp (q : Reg) (v : Word) :
    writeReg q v { s with port := p, rsp := r } = { writeReg q v s with port := p, rsp := r } := by
  cases q <;> rfl

/-- A command executes alike whatever stands in the port and the response, and it keeps the inputs to
come (R4). -/
theorem after_port_rsp (i : Instr) :
    after i { s with port := p, rsp := r } = { after i s with port := p } := by
  cases hw : i.wellFormed with
  | false =>
    rw [after_of_not_wellFormed i _ hw, after_of_not_wellFormed i _ hw]
    rfl
  | true =>
    cases i
    case rdreg a =>
      obtain ⟨q, rfl⟩ := exists_reg_of_rdreg_wellFormed hw
      rw [after_rdreg_regIdx, after_rdreg_regIdx, readReg_port_rsp]
      rfl
    case wrreg a b =>
      obtain ⟨q, rfl, hrw, hv⟩ := exists_reg_of_wrreg_wellFormed hw
      rw [after_wrreg_regIdx _ q b hrw hv, after_wrreg_regIdx _ q b hrw hv, writeReg_port_rsp]
      rfl
    case fxMul f a b => rw [after_fxMul, after_fxMul]; split_ifs <;> rfl
    case fxDiv f a b => rw [after_fxDiv, after_fxDiv]; split_ifs <;> rfl
    case fxCvt f a b => rw [after_fxCvt, after_fxCvt]; split_ifs <;> rfl
    all_goals rfl

theorem commandStep_port_rsp (w : CmdWord) :
    commandStep w { s with port := p, rsp := r } =
      ({ (commandStep w s).1 with port := p }, (commandStep w s).2) := by
  cases hd : decode w with
  | ok i => rw [commandStep_of_decode_ok hd, commandStep_of_decode_ok hd, after_port_rsp]
  | error e =>
    rw [commandStep_of_decode_error hd, commandStep_of_decode_error hd]
    rfl

end

/-- Settles O12: totality from the decoder's two outcomes, the independence command by command, and the
frame of a refusal because every executed command answers OK. -/
theorem everyCommandIsATotalStep : Obligations.EveryCommandIsATotalStep := by
  refine ⟨step_next, runCommand_next, fun w s p r => commandStep_port_rsp s p r w, fun w s h => ?_⟩
  obtain ⟨e, he⟩ := commandStep_fst_of_status_ne_ok w s h
  rw [he]
  rfl

/-! ### Rounding (R17) -/

/-- Adding half the divisor before the floor is rounding to nearest, a tie up. -/
theorem roundHalfUp_bounds (n d : Nat) (hd : 0 < d) :
    (2 * (((2 * n + d) / (2 * d) : Nat) : Int) - 1) * d ≤ 2 * n ∧
      2 * (n : Int) < (2 * (((2 * n + d) / (2 * d) : Nat) : Int) + 1) * d := by
  have hle : (2 * n + d) / (2 * d) * (2 * d) ≤ 2 * n + d := Nat.div_mul_le_self _ _
  have hlt : 2 * n + d < 2 * d * ((2 * n + d) / (2 * d) + 1) := Nat.lt_mul_div_succ _ (by omega)
  generalize (2 * n + d) / (2 * d) = q at *
  zify at hle hlt
  constructor <;> linarith

/-- `r` is an integer nearest to `n / d`, and a tie is resolved away from zero. -/
def IsNearestAwayFromZero (r n : Int) (d : Nat) : Prop :=
  2 * |r * d - n| ≤ d ∧ (2 * |r * d - n| = d → |n| < |r * d|)

theorem IsNearestAwayFromZero.neg {r n : Int} {d : Nat} (h : IsNearestAwayFromZero r n d) :
    IsNearestAwayFromZero (-r) (-n) d := by
  have hdist : |(-r) * d - (-n)| = |r * d - n| := by rw [← abs_neg]; congr 1; ring
  have hsize : |(-r) * (d : Int)| = |r * d| := by rw [neg_mul, abs_neg]
  rwa [IsNearestAwayFromZero, hdist, hsize, abs_neg]

/-- On a natural, the tie-up of the floor is away from zero. -/
theorem rndDiv_natCast_isNearest (n d : Nat) (hd : 0 < d) :
    IsNearestAwayFromZero (rndDiv n d) n d := by
  obtain ⟨hle, hlt⟩ := roundHalfUp_bounds n d hd
  rw [← rndDiv_natCast n d hd] at hle hlt
  have hupper : 2 * (rndDiv n d * d - n) ≤ d := by linarith
  have hlower : 2 * (n - rndDiv n d * d) < d := by linarith
  unfold IsNearestAwayFromZero
  generalize rndDiv n d * d = m at *
  constructor
  · cases abs_cases (m - n) <;> omega
  · intro htie
    have hup : (n : Int) < m := by cases abs_cases (m - n) <;> omega
    rwa [abs_of_nonneg (by omega), abs_of_nonneg (by omega)]

theorem rndDiv_isNearest (n : Int) (d : Nat) (hd : 0 < d) : IsNearestAwayFromZero (rndDiv n d) n d := by
  obtain ⟨m, rfl | rfl⟩ := n.eq_nat_or_neg
  · exact rndDiv_natCast_isNearest m d hd
  · rw [rndDiv_neg]
    exact (rndDiv_natCast_isNearest m d hd).neg

theorem lit_quarter : lit 28 1 4 = 0x04000000#32 := by decide

theorem lit_half : lit 28 1 2 = 0x08000000#32 := by decide

theorem deltaConstRaw_reference : deltaConstRaw Config.reference = 1118#32 := by decide

/-- Settles O23: `rndDiv` is the nearest integer with ties away from zero; the reset thresholds are the
literals 0.25 and 0.5 in every build. -/
theorem literalRoundsHalfAwayFromZero : Obligations.LiteralRoundsHalfAwayFromZero := by
  refine ⟨fun F num den hd => ⟨_, rfl, rndDiv_isNearest (num * 2 ^ F) den hd⟩,
    by decide, by decide, by decide, by decide, by decide, lit_quarter, lit_half, by decide,
    fun c => ⟨?_, ?_, ?_, ?_, rfl⟩, deltaConstRaw_reference⟩
  · exact lit_quarter.symm
  · exact lit_half.symm
  · exact lit_quarter.symm
  · exact lit_half.symm

/-- DELTA_CONST_RAW is within half a raw of 2^28 * 0.2 / SAMPLE_RATE, a tie up (R10). -/
theorem deltaConstRaw_bounds (c : Config) (h : c.WF) :
    (2 * (deltaConstRaw c).toInt - 1) * (5 * (c.sampleRate : Int)) ≤ 2 ^ 29 ∧
      2 ^ 29 < (2 * (deltaConstRaw c).toInt + 1) * (5 * (c.sampleRate : Int)) := by
  have hpos := h.1
  have hq : (2 ^ 30 + 10 * c.sampleRate) / (20 * c.sampleRate) =
      (2 * 2 ^ 29 + 10 * c.sampleRate) / (2 * (10 * c.sampleRate)) := by congr 1; ring
  have hbounds := roundHalfUp_bounds (2 ^ 29) (10 * c.sampleRate) (by omega)
  rw [← hq, ← deltaConstRaw_toInt c h] at hbounds
  push_cast at hbounds
  constructor <;> linarith

/-- Settles O24: DELTA_CONST_RAW is the rounded quotient, which fits the signed range at every rate. -/
theorem deltaConstIsTheNearestRaw : Obligations.DeltaConstIsTheNearestRaw :=
  ⟨deltaConstRaw_bounds, deltaConstRaw_reference⟩

end Sys2Proof.Machine
end

section
/-! PROOFS of the state family (10_state.md): a register changes only by its listed commands (R21), the
registers are all there is to read (R52), and the invariant of the reachable states (R53, R206). -/

namespace Sys2Proof.Machine

/-! ### The one write of an executed command -/

/-- `Writes s i u`: executed from `s`, the command `i` leaves the registers of `u`, before the response is
put on the port. A command that writes nothing, or whose write changes nothing, may be read as `nothing`. -/
inductive Writes (s : State) : Instr → State → Prop where
  | nothing (i : Instr) : Writes s i s
  | lfsrProc : Writes s .lfsrProc (s.setLfsr { s.lfsr with value := lfsrNext s.lfsr })
  | phProc : Writes s .phProc (s.setPh { s.ph with phase := phaseNext s.ph })
  | phSetPeriod (a b : Word) :
      Writes s (.phSetPeriod a b) (s.setPh { s.ph with delta := periodDelta s.cfg a b })
  | envProc : Writes s .envProc (s.setEnv (envNext s.cfg s.env))
  | envStart : Writes s .envStart (s.setEnv { s.env with state := .rising })
  | envStop : Writes s .envStop (s.setEnv { s.env with state := envStopped s.env })
  | tgProc : Writes s .tgProc (s.setTg { s.tg with count := satInc s.tg.count })
  | tgReset : Writes s .tgReset (s.setTg { s.tg with count := wrap (-1) })
  | schProc (a : Word) : Writes s (.schProc a) (s.setSch (schmidtStep s.sch a))
  | tdProc (a : Word) : Writes s (.tdProc a)
      (s.setTd { cmp := schmidtStep s.td.cmp a, lastVal := (schmidtStep s.td.cmp a).state })
  | crdProc (a : Word) : Writes s (.crdProc a) (s.setCrd (crdNext (triggered a) s.crd))
  | wrreg (r : Reg) (v : Word) (hrw : regAccess r = .rw) (hv : writeInRange r v = true) :
      Writes s (.wrreg (regIdx r) v) (writeReg r v s)

/-- A command is refused, or makes its one write and answers (R4, R185). -/
theorem refuse_or_writes {i : Instr} {s t : State} (h : exec i s = .next t) :
    (i.wellFormed = false ∧ t = s.refuse .illegalOperand) ∨
      ∃ u d, Writes s i u ∧ t = u.respond d := by
  have result : ∀ {t'}, exec i s = .next t' → t = t' := fun h' =>
    Host.Outcome.next.inj (h.symm.trans h')
  obtain ⟨hw, hu⟩ | ⟨-, d, hd⟩ := exec_cases i s
  · exact .inl ⟨hw, result hu⟩
  · right
    obtain hu | ⟨rfl, hu⟩ | ⟨rfl, hu⟩ | ⟨a, b, rfl, hu⟩ | ⟨rfl, hu⟩ | ⟨rfl, hu⟩ | ⟨rfl, hu⟩ | ⟨rfl, hu⟩ |
      ⟨rfl, hu⟩ | ⟨a, rfl, hu⟩ | ⟨a, rfl, hu⟩ | ⟨a, rfl, hu⟩ | ⟨r, v, rfl, hrw, hv, hu⟩ := hd
    · exact ⟨_, d, .nothing i, result hu⟩
    · exact ⟨_, d, .lfsrProc, result hu⟩
    · exact ⟨_, d, .phProc, result hu⟩
    · exact ⟨_, d, .phSetPeriod a b, result hu⟩
    · exact ⟨_, d, .envProc, result hu⟩
    · exact ⟨_, d, .envStart, result hu⟩
    · exact ⟨_, d, .envStop, result hu⟩
    · exact ⟨_, d, .tgProc, result hu⟩
    · exact ⟨_, d, .tgReset, result hu⟩
    · exact ⟨_, d, .schProc a, result hu⟩
    · exact ⟨_, d, .tdProc a, result hu⟩
    · exact ⟨_, d, .crdProc a, result hu⟩
    · exact ⟨_, d, .wrreg r v hrw hv, result hu⟩

/-! ### The "written by" column (R21) -/

/-- A refusal writes STATUS alone (R185). -/
theorem readReg_refuse {q : Reg} (hq : q ≠ .status) (s : State) (e : CmdError) :
    readReg q (s.refuse e) = readReg q s := by
  cases q with
  | status => exact absurd rfl hq
  | _ => rfl

/-- The map lists WRREG for every register it marks as writable. -/
theorem mayWrite_wrreg_regIdx {r : Reg} (hrw : regAccess r = .rw) (v : Word) :
    mayWrite (.wrreg (regIdx r) v) r = true := by
  cases r <;> simp [regAccess, mayWrite, isWriteOf, regIdx] at hrw ⊢

theorem Writes.mayWrite_or_readReg_eq {i : Instr} {s u : State} (h : Writes s i u) (q : Reg) :
    mayWrite i q = true ∨ readReg q u = readReg q s := by
  cases h with
  | nothing => exact .inr rfl
  | wrreg r v hrw =>
    by_cases hq : q = r
    · exact .inl (hq ▸ mayWrite_wrreg_regIdx hrw v)
    · exact .inr (readReg_writeReg_ne r q v s hq)
  | _ => cases q <;> simp [mayWrite, readReg]

theorem Writes.cfg_eq {i : Instr} {s u : State} (h : Writes s i u) : u.cfg = s.cfg := by
  cases h with
  | wrreg r v => exact writeReg_cfg r v s
  | _ => rfl

theorem Writes.port_eq {i : Instr} {s u : State} (h : Writes s i u) : u.port = s.port := by
  cases h with
  | wrreg r v => exact writeReg_port r v s
  | _ => rfl

/-- Settles O54: a refusal writes STATUS, which the map lists for it, and an executed command's one write is
to a register that lists the command. -/
theorem onlyTheListedCommandsWriteARegister : Obligations.OnlyTheListedCommandsWriteARegister := by
  intro i s t h
  obtain ⟨hw, rfl⟩ | ⟨u, d, hu, rfl⟩ := refuse_or_writes h
  · refine ⟨fun r hr => readReg_refuse ?_ s _, rfl, rfl⟩
    rintro rfl
    simp [mayWrite, hw] at hr
  · refine ⟨fun r hr => ?_, hu.cfg_eq, hu.port_eq⟩
    rw [readReg_respond]
    exact (hu.mayWrite_or_readReg_eq r).resolve_left (by simp [hr])

/-! ### The invariant of the reachable states (R53) -/

theorem sampleRate_toInt_nonneg {c : Config} (h : c.WF) : 0 ≤ (BitVec.ofNat 32 c.sampleRate).toInt := by
  obtain ⟨-, hle⟩ := h
  rw [BitVec.toInt_eq_toNat_cond, BitVec.toNat_ofNat, Nat.mod_eq_of_lt (by omega), if_pos (by omega)]
  omega

theorem resetFor_inv {c : Config} (h : c.WF) : (State.resetFor c).Inv where
  cfg := h
  status := .inl rfl
  lfsrBits := show 1 ≤ (16#6).toNat ∧ (16#6).toNat ≤ 32 by decide
  tgCount := show -1 ≤ s32 0x7FFFFFFF#32 by decide
  schState := .inl rfl
  tdState := .inl rfl
  tdLastVal := rfl
  crdCount := show 0 ≤ s32 0#32 by decide
  crdInterval := sampleRate_toInt_nonneg h

/-- Settles O58: the reset values are in range, CRD_INTERVAL because SAMPLE_RATE is below 2^31. -/
theorem resetMeetsTheInvariant : Obligations.ResetMeetsTheInvariant :=
  ⟨fun _ => resetFor_inv, resetFor_inv (by decide)⟩

/-- STATUS stays one of its three values whichever error is recorded (R188). -/
theorem recordError_statusOk (e : CmdError) {st : BitVec 3} (h : StatusOk st) :
    StatusOk (recordError e st) := by
  rw [recordError_eq]
  split
  · exact h
  · cases e with
    | illegalOpcode => exact .inr (.inl rfl)
    | illegalOperand => exact .inr (.inr rfl)

theorem schmidtStep_levelOk {c : Schmidt} (h : LevelOk c.state) (x : Word) :
    LevelOk (schmidtStep c x).state := by
  obtain h0 | h1 | h2 | hkept := schmidtStep_state_cases c x
  · exact .inl h0
  · exact .inr (.inl h1)
  · exact .inr (.inr h2)
  · rwa [hkept]

/-- The saturating increment never goes below a bound it has reached (R161, R171). -/
theorem le_satInc_toInt {n : Int} {x : Word} (h : n ≤ x.toInt) : n ≤ (satInc x).toInt := by
  have hmax := (toInt_range x).2
  rw [satInc_toInt]
  omega

/-- LFSR_BITS takes no value outside 1 .. 32 from a WRREG in range (R28, R178). -/
theorem writeReg_lfsrBits_mem {s : State} (h : 1 ≤ s.lfsr.bits.toNat ∧ s.lfsr.bits.toNat ≤ 32) {r : Reg}
    {v : Word} (hv : writeInRange r v = true) :
    1 ≤ (writeReg r v s).lfsr.bits.toNat ∧ (writeReg r v s).lfsr.bits.toNat ≤ 32 := by
  cases r with
  | lfsrBits =>
    simp only [writeInRange, u32, Bool.and_eq_true, decide_eq_true_eq] at hv
    obtain ⟨hlo, hhi⟩ := hv
    have hbits : (v.setWidth 6).toNat = v.toNat := by
      rw [BitVec.toNat_setWidth, Nat.mod_eq_of_lt (by omega)]
    exact ⟨hbits.symm ▸ hlo, hbits.symm ▸ hhi⟩
  | _ => exact h

namespace State.Inv

variable {s : State}

theorem respond (h : s.Inv) (d : Word) : (s.respond d).Inv := { h with }

theorem idleCycle (h : s.Inv) : s.idleCycle.Inv := { h with }

theorem takeCycle (h : s.Inv) : s.takeCycle.Inv := { h with }

theorem resetCycle (h : s.Inv) : s.resetCycle.Inv := { resetFor_inv h.cfg with }

theorem refuse (h : s.Inv) (e : CmdError) : (s.refuse e).Inv :=
  { h with status := recordError_statusOk e h.status }

theorem setPh (h : s.Inv) (u : Phasor) : (s.setPh u).Inv := { h with }

theorem setEnv (h : s.Inv) (u : Envelope) : (s.setEnv u).Inv := { h with }

theorem setTg (h : s.Inv) {u : TrigGen} (hu : -1 ≤ s32 u.count) : (s.setTg u).Inv :=
  { h with tgCount := hu }

theorem setCrd (h : s.Inv) {u : ClockRate} (hc : 0 ≤ s32 u.count) (hi : 0 ≤ s32 u.interval) :
    (s.setCrd u).Inv :=
  { h with crdCount := hc, crdInterval := hi }

theorem setCrd_crdNext (h : s.Inv) (trig : Bool) : (s.setCrd (crdNext trig s.crd)).Inv := by
  cases trig with
  | true => exact h.setCrd (show 0 ≤ s32 0#32 by decide) h.crdCount
  | false => exact h.setCrd (le_satInc_toInt h.crdCount) h.crdInterval

theorem writeReg (h : s.Inv) {r : Reg} {v : Word} (hv : writeInRange r v = true) :
    (writeReg r v s).Inv where
  cfg := by simpa using h.cfg
  status := by simpa using h.status
  lfsrBits := writeReg_lfsrBits_mem h.lfsrBits hv
  tgCount := by simpa using h.tgCount
  schState := by simpa using h.schState
  tdState := by simpa using h.tdState
  tdLastVal := by simpa using h.tdLastVal
  crdCount := by simpa using h.crdCount
  crdInterval := by simpa using h.crdInterval

end State.Inv

theorem Writes.inv {i : Instr} {s u : State} (hu : Writes s i u) (h : s.Inv) : u.Inv := by
  cases hu with
  | nothing => exact h
  | lfsrProc => exact { h with }
  | phProc => exact h.setPh _
  | phSetPeriod => exact h.setPh _
  | envProc => exact h.setEnv _
  | envStart => exact h.setEnv _
  | envStop => exact h.setEnv _
  | tgProc => exact h.setTg (le_satInc_toInt h.tgCount)
  | tgReset => exact h.setTg (show -1 ≤ s32 (wrap (-1)) by decide)
  | schProc a => exact { h with schState := schmidtStep_levelOk h.schState a }
  | tdProc a => exact { h with tdState := schmidtStep_levelOk h.tdState a, tdLastVal := rfl }
  | crdProc a => exact h.setCrd_crdNext _
  | wrreg r v _ hv => exact h.writeReg hv

theorem exec_inv {i : Instr} {s t : State} (h : s.Inv) (ht : exec i s = .next t) : t.Inv := by
  obtain ⟨-, rfl⟩ | ⟨u, d, hu, rfl⟩ := refuse_or_writes ht
  · exact h.refuse _
  · exact (hu.inv h).respond d

/-- Settles O57: each kind of cycle keeps the invariant, a command by its refusal or its one write. -/
theorem everyStepKeepsTheInvariant : Obligations.EveryStepKeepsTheInvariant := by
  intro s t h ht
  obtain rfl | rfl | ⟨w, e, -, -, rfl⟩ | ⟨w, i, -, -, hexec⟩ := step_cases ht
  · exact h.takeCycle.idleCycle
  · exact h.takeCycle.resetCycle
  · exact h.takeCycle.refuse _
  · exact exec_inv h.takeCycle hexec

/-! ### The registers are all there is to read (R52) -/

/-- A narrow register is determined by its reading, its bits with zeros above (R21). -/
theorem setWidth_injective_of_le {n m : Nat} (hnm : n ≤ m) :
    Function.Injective (BitVec.setWidth m : BitVec n → BitVec m) := by
  intro x y h
  have hback := congrArg (BitVec.setWidth n) h
  rwa [BitVec.setWidth_setWidth_of_le _ hnm, BitVec.setWidth_setWidth_of_le _ hnm, BitVec.setWidth_eq,
    BitVec.setWidth_eq] at hback

theorem bitWord_injective : Function.Injective bitWord := by decide

theorem envStateCode_injective : Function.Injective envStateCode := by
  intro x y h
  cases x <;> cases y <;> simp [envStateCode] at h ⊢

/-- RDREG shows a register's reading, so equal responses are equal readings (R177). -/
theorem readReg_eq_of_rdreg_rsp_eq {r : Reg} {s t : State}
    (h : (after (.rdreg (regIdx r)) s).rsp = (after (.rdreg (regIdx r)) t).rsp) :
    readReg r s = readReg r t := by
  rw [after_rdreg_regIdx, after_rdreg_regIdx] at h
  exact congrArg Response.data h

/-- Settles O53: each register is its reading, or a narrow field its reading determines. -/
theorem registersAreFullyObservable : Obligations.RegistersAreFullyObservable := by
  intro s t h
  have hread : ∀ r, readReg r s = readReg r t := fun r => readReg_eq_of_rdreg_rsp_eq (h r)
  have hstatus := setWidth_injective_of_le (by decide) (hread .status)
  have hbits := setWidth_injective_of_le (by decide) (hread .lfsrBits)
  have hstate := envStateCode_injective (setWidth_injective_of_le (by decide) (hread .envState))
  have hhold := bitWord_injective (hread .envHold)
  refine ⟨hstatus, ?lfsr, ?ph, ?env, ?tg, ?sch, ?td, ?crd⟩
  case lfsr => exact (Lfsr.mk.injEq ..).mpr ⟨hread .lfsrValue, hread .lfsrMask, hbits⟩
  case ph => exact (Phasor.mk.injEq ..).mpr ⟨hread .phPhase, hread .phDelta⟩
  case env =>
    exact (Envelope.mk.injEq ..).mpr
      ⟨hread .envPhase, hstate, hread .envAttack, hread .envDecay, hhold⟩
  case tg =>
    exact (TrigGen.mk.injEq ..).mpr
      ⟨hread .tgCount, hread .tgDelay, hread .tgWidth, hread .tgAmp⟩
  case sch =>
    exact (Schmidt.mk.injEq ..).mpr
      ⟨hread .schLo, hread .schHi, hread .schLast, hread .schState⟩
  case td =>
    have hcmp : s.td.cmp = t.td.cmp := (Schmidt.mk.injEq ..).mpr
      ⟨hread .tdLo, hread .tdHi, hread .tdLast, hread .tdState⟩
    exact (TrigDetector.mk.injEq ..).mpr ⟨hcmp, hread .tdLastVal⟩
  case crd => exact (ClockRate.mk.injEq ..).mpr ⟨hread .crdCount, hread .crdInterval⟩

end Sys2Proof.Machine
end

section
/-! PROOFS of the memory family (20_memory.md): commands presented at the port take effect one at a time, in
order (R67), and a register write changes that register alone (R64). -/

namespace Sys2Proof.Machine

/-! ### Commands at the port, one a cycle (R67) -/

/-- The machine's answer to a command word is R4's step function. -/
theorem runCommand_eq_commandStep (w : CmdWord) (s : State) :
    runCommand w s = .next (commandStep w s).1 := by
  obtain ⟨t, ht⟩ := runCommand_next w s
  simp only [commandStep, ht]

theorem commandStep_fst_port (w : CmdWord) (s : State) (p : List PortCycle) :
    (commandStep w { s with port := p }).1 = { (commandStep w s).1 with port := p } :=
  congrArg Prod.fst (commandStep_port_rsp s p s.rsp w)

/-- A cycle that presents a command is R4's step function on it; the inputs to come stay in the port (R70). -/
theorem step_presents (w : CmdWord) (p : List PortCycle) (s : State) :
    step { s with port := presents w :: p } = .next { (commandStep w s).1 with port := p } := by
  have hcycle : step { s with port := presents w :: p } = runCommand w { s with port := p } := rfl
  rw [hcycle, runCommand_eq_commandStep, commandStep_fst_port]

/-- A run whose first step has a next state goes on from there. -/
theorem core_run_succ_of_step {s t : Sys2Proof.core.State} (h : Sys2Proof.core.step s = .next t) (k : Nat) :
    Sys2Proof.core.run (k + 1) s = Sys2Proof.core.run k t := by
  simp only [Host.Core.run, h]

theorem run_presents (ws : List CmdWord) (s : State) :
    Host.Core.run Sys2Proof.core ws.length { s with port := ws.map presents } =
      .next { (runCommands ws s).1 with port := [] } := by
  induction ws generalizing s with
  | nil => rfl
  | cons w ws ih =>
    have hstep : Sys2Proof.core.step { s with port := (w :: ws).map presents } =
        .next { (commandStep w s).1 with port := ws.map presents } :=
      step_presents w (ws.map presents) s
    exact (core_run_succ_of_step hstep ws.length).trans (ih (commandStep w s).1)

/-- The second part of a program acts on the state the first part left (R67). -/
theorem runCommands_append (ws vs : List CmdWord) (s : State) :
    runCommands (ws ++ vs) s =
      ((runCommands vs (runCommands ws s).1).1,
        (runCommands ws s).2 ++ (runCommands vs (runCommands ws s).1).2) := by
  induction ws generalizing s with
  | nil => rfl
  | cons w ws ih => simp only [List.cons_append, runCommands, ih]

/-- Settles O13, both parts by induction on the list of commands from every state. -/
theorem portRefinesTheCommandFunction : Obligations.PortRefinesTheCommandFunction :=
  ⟨run_presents, runCommands_append⟩

/-! ### A write and the reads after it (R64) -/

/-- Settles O52: the register laws `readReg_writeReg` and `readReg_writeReg_ne`, seen through the responses of
RDREG. -/
theorem wrregThenRdregReadsItBack : Obligations.WrregThenRdregReadsItBack := by
  intro r q v s hlegal
  rw [legalWrite_regIdx, Bool.and_eq_true, beq_iff_eq] at hlegal
  obtain ⟨hrw, hv⟩ := hlegal
  simp only [after_wrreg_regIdx s r v hrw hv, after_rdreg_regIdx, readReg_respond, respond_rsp]
  refine ⟨?written, fun hq => ?other, rfl⟩
  case written => rw [readReg_writeReg r v s hrw hv]; rfl
  case other => rw [readReg_writeReg_ne r q v s hq]

end Sys2Proof.Machine
end

section
/-! PROOFS of the encoding family (30_encoding.md): the command word and its four fields (R71), decoding and
encoding (R73, R75, R76), which commands are refused (R77), the pseudo-instructions (R81), and what a clock
cycle at the port does (R70). -/

namespace Sys2Proof

/-! ### The command word's fields (R71) -/

section
variable (w : CmdWord)

theorem cmdOp_getLsbD {i : Nat} (hi : i < 8) : (cmdOp w).getLsbD i = w.getLsbD (72 + i) := by
  simp [cmdOp, hi]

theorem cmdF_getLsbD {i : Nat} (hi : i < 8) : (cmdF w).getLsbD i = w.getLsbD (64 + i) := by
  simp [cmdF, hi]

theorem cmdA_getLsbD {i : Nat} (hi : i < 32) : (cmdA w).getLsbD i = w.getLsbD (32 + i) := by
  simp [cmdA, hi]

theorem cmdB_getLsbD {i : Nat} (hi : i < 32) : (cmdB w).getLsbD i = w.getLsbD i := by
  simp [cmdB, hi]

/-- A word is its four fields. -/
theorem packCmd_fields : packCmd (cmdOp w) (cmdF w) (cmdA w) (cmdB w) = w := by
  apply BitVec.eq_of_getLsbD_eq
  intro j hj
  rw [packCmd_getLsbD]
  split_ifs with hb ha hf
  · exact cmdB_getLsbD w hb
  · rw [cmdA_getLsbD w (by omega)]
    congr 1
    omega
  · rw [cmdF_getLsbD w (by omega)]
    congr 1
    omega
  · rw [cmdOp_getLsbD w (by omega)]
    congr 1
    omega

end

/-- Settles O1: each field is an extraction, and packing places it where it is read. -/
theorem commandWordHasFourFixedFields : Obligations.CommandWordHasFourFixedFields :=
  ⟨fun w => ⟨fun _ => cmdOp_getLsbD w, fun _ => cmdF_getLsbD w, fun _ => cmdA_getLsbD w,
      fun _ => cmdB_getLsbD w, packCmd_fields w⟩,
    fun op f a b => ⟨cmdOp_packCmd op f a b, cmdF_packCmd op f a b, cmdA_packCmd op f a b,
      cmdB_packCmd op f a b⟩⟩

/-! ### Decoding (R73, R75, R76) -/

/-- Settles O2: the decoder of a packed word, at each of the 20 opcodes. -/
theorem opcodeMapSelectsEachCommand : Obligations.OpcodeMapSelectsEachCommand := by
  intro f a b
  have row := fun op : BitVec 8 => decode_packCmd op f a b
  have hzero : decode 0#80 = .ok .nop := decode_packCmd 0x00#8 0#8 0#32 0#32
  exact ⟨row 0x00#8, row 0x01#8, row 0x02#8, row 0x10#8, row 0x11#8, row 0x12#8, row 0x13#8, row 0x14#8,
    row 0x15#8, row 0x20#8, row 0x30#8, row 0x31#8, row 0x40#8, row 0x41#8, row 0x42#8, row 0x50#8,
    row 0x51#8, row 0x60#8, row 0x70#8, row 0x80#8, hzero⟩

/-- Settles O7: the words stand in the text of the spec, and the decoder is run on them. -/
theorem wordsOfTheSpecDecodeRight : Obligations.WordsOfTheSpecDecodeRight :=
  ⟨rfl, rfl, rfl, rfl, rfl, rfl, rfl, rfl, rfl⟩

/-- The 20 opcodes of the map (R75). -/
def opcodes : List Nat :=
  [0x00, 0x01, 0x02, 0x10, 0x11, 0x12, 0x13, 0x14, 0x15, 0x20, 0x30, 0x31, 0x40, 0x41, 0x42,
    0x50, 0x51, 0x60, 0x70, 0x80]

theorem decode_of_mem_opcodes {w : CmdWord} (h : (cmdOp w).toNat ∈ opcodes) : ∃ i, decode w = .ok i := by
  unfold decode
  split
  -- the arm of the unused opcodes cannot be reached
  case h_21 => simp_all [opcodes]
  all_goals exact ⟨_, rfl⟩

theorem decode_of_not_mem_opcodes {w : CmdWord} (h : (cmdOp w).toNat ∉ opcodes) :
    decode w = .error (.illegalOpcode (cmdOp w)) := by
  unfold decode
  split
  case h_21 => rfl
  all_goals next hop => exact absurd (by rw [hop]; decide) h

theorem length_unusedOpcodes : ((List.range 256).filter (fun n => !opcodes.contains n)).length = 236 := by
  decide +kernel

/-- Settles O3: the decoder's arms are the listed opcodes and one arm for the rest. -/
theorem unusedOpcodesAreIllegal : Obligations.UnusedOpcodesAreIllegal :=
  ⟨fun _ => ⟨decode_of_mem_opcodes, decode_of_not_mem_opcodes⟩, length_unusedOpcodes⟩

/-! ### Encoding (R73) -/

/-- Each encoded instruction is a packed word, which decodes by its opcode. -/
theorem decode_encode (i : Instr) : decode (encode i) = .ok i := by
  cases i <;> exact decode_packCmd ..

/-- Settles O4, instruction by instruction. -/
theorem decodeOfEncodeIsTheInstruction : Obligations.DecodeOfEncodeIsTheInstruction := decode_encode

/-- The opcodes whose shape reads `f` (R75). -/
def opcodesReadingF : List Nat := [0x12, 0x13, 0x15]

/-- The opcodes whose shape reads `a` (R75). -/
def opcodesReadingA : List Nat :=
  [0x01, 0x02, 0x10, 0x11, 0x12, 0x13, 0x14, 0x15, 0x31, 0x60, 0x70, 0x80]

/-- The opcodes whose shape reads `b` (R75). -/
def opcodesReadingB : List Nat := [0x02, 0x10, 0x11, 0x12, 0x13, 0x14, 0x15, 0x31]

/-- The word with 0 in the fields its opcode's shape does not read (R73). -/
def clearUnread (w : CmdWord) : CmdWord :=
  packCmd (cmdOp w) (if (cmdOp w).toNat ∈ opcodesReadingF then cmdF w else 0#8)
    (if (cmdOp w).toNat ∈ opcodesReadingA then cmdA w else 0#32)
    (if (cmdOp w).toNat ∈ opcodesReadingB then cmdB w else 0#32)

theorem cmdOp_clearUnread (w : CmdWord) : cmdOp (clearUnread w) = cmdOp w := cmdOp_packCmd ..

/-- The encoder writes what the decoder read, and 0 elsewhere. -/
theorem encode_of_decode_ok {w : CmdWord} {i : Instr} (h : decode w = .ok i) : encode i = clearUnread w := by
  unfold decode at h
  split at h
  case h_21 => cases h
  all_goals
    next hop =>
    cases h
    rw [clearUnread, (BitVec.toNat_eq_nat.1 hop).2]
    rfl

/-- Settles O6: `clearUnread w` is the word the statement writes out. -/
theorem encodeOfDecodedKeepsTheFieldsRead : Obligations.EncodeOfDecodedKeepsTheFieldsRead :=
  fun _ _ => encode_of_decode_ok

/-- The fields a command does not read have no effect: a word of a command decodes as the encoding of that
command, and an illegal opcode is illegal whatever the fields hold (R73, R76). -/
theorem decode_clearUnread (w : CmdWord) : decode (clearUnread w) = decode w := by
  by_cases hop : (cmdOp w).toNat ∈ opcodes
  · obtain ⟨i, hi⟩ := decode_of_mem_opcodes hop
    rw [hi, ← encode_of_decode_ok hi]
    exact decode_encode i
  · have hclear : (cmdOp (clearUnread w)).toNat ∉ opcodes := by rwa [cmdOp_clearUnread]
    rw [decode_of_not_mem_opcodes hop, decode_of_not_mem_opcodes hclear, cmdOp_clearUnread]

/-- Words that agree on `op` and on the fields its shape reads are alike once the rest is cleared. -/
theorem clearUnread_eq_clearUnread {w v : CmdWord} (hop : cmdOp w = cmdOp v)
    (hf : (cmdOp w).toNat ∈ opcodesReadingF → cmdF w = cmdF v)
    (ha : (cmdOp w).toNat ∈ opcodesReadingA → cmdA w = cmdA v)
    (hb : (cmdOp w).toNat ∈ opcodesReadingB → cmdB w = cmdB v) : clearUnread w = clearUnread v := by
  unfold clearUnread
  rw [hop] at hf ha hb ⊢
  rw [ite_congr rfl hf fun _ => rfl, ite_congr rfl ha fun _ => rfl, ite_congr rfl hb fun _ => rfl]

end Sys2Proof

namespace Sys2Proof.Machine

theorem runCommand_eq_of_decode_eq {w v : CmdWord} (h : decode w = decode v) (s : State) :
    runCommand w s = runCommand v s := by
  rw [runCommand, runCommand, h]

/-- Settles O5: both words decode as the same word with the unread fields cleared. -/
theorem unreadFieldsHaveNoEffect : Obligations.UnreadFieldsHaveNoEffect := by
  intro w v hop hf ha hb
  have hdecode : decode w = decode v := by
    rw [← decode_clearUnread w, clearUnread_eq_clearUnread hop hf ha hb, decode_clearUnread v]
  exact ⟨hdecode, runCommand_eq_of_decode_eq hdecode⟩

/-! ### Legal and illegal operands (R77, R187) -/

theorem legalFormat_iff (n : Nat) : legalFormat n = true ↔ n < 32 := decide_eq_true_iff

theorem writeInRange_iff (r : Reg) (v : Word) :
    writeInRange r v = true ↔ (r = .lfsrBits → 1 ≤ v.toNat ∧ v.toNat ≤ 32) := by
  cases r <;> simp [writeInRange]

theorem rdreg_wellFormed_iff (a : Word) : (Instr.rdreg a).wellFormed = true ↔ ∃ r, regIdx r = a := by
  constructor
  · intro h
    obtain ⟨r, rfl⟩ := exists_reg_of_rdreg_wellFormed h
    exact ⟨r, rfl⟩
  · rintro ⟨r, rfl⟩
    rw [Instr.wellFormed, mappedIndices_contains, regOfIdx_regIdx, Option.isSome_some]

theorem wrreg_wellFormed_iff (a b : Word) :
    (Instr.wrreg a b).wellFormed = true ↔
      ∃ r, regIdx r = a ∧ regAccess r = .rw ∧ writeInRange r b = true := by
  constructor
  · intro h
    obtain ⟨r, rfl, hlegal⟩ := exists_reg_of_wrreg_wellFormed h
    exact ⟨r, rfl, hlegal⟩
  · rintro ⟨r, rfl, hrw, hv⟩
    rw [Instr.wellFormed, legalWrite_regIdx, hrw, hv]
    rfl

/-- The five commands that can be refused (R77). -/
theorem exists_operands_of_not_wellFormed {i : Instr} (h : i.wellFormed = false) :
    ∃ (f : BitVec 8) (a b : Word),
      i = .fxMul f a b ∨ i = .fxDiv f a b ∨ i = .fxCvt f a b ∨ i = .rdreg a ∨ i = .wrreg a b := by
  cases i with
  | fxMul f a b => exact ⟨f, a, b, .inl rfl⟩
  | fxDiv f a b => exact ⟨f, a, b, .inr (.inl rfl)⟩
  | fxCvt f a b => exact ⟨f, a, b, .inr (.inr (.inl rfl))⟩
  | rdreg a => exact ⟨0#8, a, 0#32, .inr (.inr (.inr (.inl rfl)))⟩
  | wrreg a b => exact ⟨0#8, a, b, .inr (.inr (.inr (.inr rfl)))⟩
  | _ => cases h

theorem Writes.status_eq {i : Instr} {s u : State} (h : Writes s i u) : u.status = s.status := by
  cases h with
  | wrreg r v => exact writeReg_status r v s
  | _ => rfl

/-- A command with legal operands makes its one write and answers with status OK (R72). -/
theorem writes_of_wellFormed {i : Instr} (h : i.wellFormed = true) (s : State) :
    ∃ u d, Writes s i u ∧ after i s = u.respond d := by
  obtain ⟨hw, -⟩ | hwrites := refuse_or_writes (exec_eq_after i s)
  · rw [h] at hw
    cases hw
  · exact hwrites

/-- Settles O15: illegal operands are refused, legal ones answered, and the register map is the list of legal
indices. -/
theorem onlyIllegalOperandsAreRefused : Obligations.OnlyIllegalOperandsAreRefused := by
  refine ⟨fun i s => ⟨after i s, exec_eq_after i s, ?outcome⟩, fun f a b => ⟨?mul, ?div, ?cvt, ?rd, ?wr⟩,
    fun i => exists_operands_of_not_wellFormed⟩
  case outcome =>
    cases hw : i.wellFormed with
    | false =>
      rw [after_of_not_wellFormed i s hw]
      exact ⟨rfl, nofun, fun _ => rfl⟩
    | true =>
      obtain ⟨u, d, hu, hafter⟩ := writes_of_wellFormed hw s
      rw [hafter]
      exact ⟨rfl, fun _ => ⟨rfl, hu.status_eq⟩, nofun⟩
  case mul => exact legalFormat_iff f.toNat
  case div => exact legalFormat_iff f.toNat
  case cvt => rw [Instr.wellFormed, Bool.and_eq_true, legalFormat_iff, legalFormat_iff]
  case rd => exact rdreg_wellFormed_iff a
  case wr => simp only [wrreg_wellFormed_iff, writeInRange_iff]

/-! ### The pseudo-instructions (R81) -/

/-- Every writable register but LFSR_BITS takes any value (R178). -/
theorem after_wr_of_ne_lfsrBits {r : Reg} (hrw : regAccess r = .rw) (hr : r ≠ .lfsrBits) (v : Word)
    (s : State) :
    after (wr r v) s = (writeReg r v s).respond 0#32 :=
  after_wrreg_regIdx s r v hrw ((writeInRange_iff r v).2 fun h => absurd h hr)

theorem after_wr_lfsrBits {v : Word} (hlo : 1 ≤ v.toNat) (hhi : v.toNat ≤ 32) (s : State) :
    after (wr .lfsrBits v) s = (writeReg .lfsrBits v s).respond 0#32 :=
  after_wrreg_regIdx s .lfsrBits v rfl ((writeInRange_iff .lfsrBits v).2 fun _ => ⟨hlo, hhi⟩)

/-- Conversion from 0 fractional bits scales up (R95). -/
theorem fxCvt_from_zero (F : Nat) (x : Word) : fxCvt 0 F x = BitVec.ofInt 32 (x.toInt * 2 ^ F) := by
  rw [fxCvt, if_pos (Nat.zero_le F), Nat.sub_zero]

/-- Conversion to 0 fractional bits floors (R95). -/
theorem fxCvt_to_zero (F : Nat) (x : Word) : fxCvt F 0 x = BitVec.ofInt 32 (x.toInt / 2 ^ F) := by
  unfold fxCvt
  split
  · next h =>
    obtain rfl := Nat.le_zero.1 h
    simp
  · rw [Nat.sub_zero]

/-- FX_CVT of two legal formats answers with the conversion (R102). -/
theorem after_fxCvt_of_legal (s : State) {f : BitVec 8} {b : Word} (a : Word) (hf : f.toNat < 32)
    (hb : b.toNat < 32) : after (.fxCvt f a b) s = s.respond (fxCvt f.toNat b.toNat a) := by
  rw [after_fxCvt, if_pos (by simp [formatLegal, hf, hb])]

section
variable (s : State) (x y z : Word) {f : BitVec 8}

theorem afterAll_lfsrConfig (hlo : 1 ≤ x.toNat) (hhi : x.toNat ≤ 32) :
    afterAll (expandPseudo (.lfsrConfig x y z)) s =
      { s with lfsr := { value := z, mask := y, bits := x.setWidth 6 }, rsp := Response.okData 0#32 } := by
  simp (disch := decide) only [expandPseudo, afterAll, after_wr_lfsrBits hlo hhi, after_wr_of_ne_lfsrBits]
  simp only [writeReg, State.respond]

theorem afterAll_fxFromInt (hf : f.toNat < 32) :
    afterAll (expandPseudo (.fxFromInt f x)) s =
      s.respond (BitVec.ofInt 32 (x.toInt * 2 ^ f.toNat)) := by
  have hF : (f.setWidth 32).toNat = f.toNat := BitVec.toNat_setWidth_of_le (by decide)
  simp only [expandPseudo, afterAll]
  rw [after_fxCvt_of_legal s x (by decide) (hF ▸ hf), hF]
  exact congrArg s.respond (fxCvt_from_zero f.toNat x)

theorem afterAll_fxToInt (hf : f.toNat < 32) :
    afterAll (expandPseudo (.fxToInt f x)) s =
      s.respond (BitVec.ofInt 32 (x.toInt / 2 ^ f.toNat)) := by
  simp only [expandPseudo, afterAll]
  rw [after_fxCvt_of_legal s x hf (by decide)]
  exact congrArg s.respond (fxCvt_to_zero f.toNat x)

end

/-- Settles O56: a configuration is its register writes one after the other, a conversion is FX_CVT from or to
0 fractional bits. -/
theorem pseudoInstructionsHaveTheirEffect : Obligations.PseudoInstructionsHaveTheirEffect := by
  intro s x y z f
  refine ⟨fun hlo hhi => afterAll_lfsrConfig s x y z hlo hhi, ?env, ?tg, ?sch, ?td,
    fun hf => ⟨afterAll_fxFromInt s x hf, afterAll_fxToInt s x hf⟩, rfl, rfl⟩
  all_goals
    simp (disch := decide) only [expandPseudo, afterAll, after_wr_of_ne_lfsrBits]
    simp only [writeReg, State.respond, Response.okData]

/-! ### One clock cycle at the port (R70) -/

section
variable {s : State} {c : PortCycle} {rest : List PortCycle}

theorem takeCycle_of_port_cons (hport : s.port = c :: rest) : s.takeCycle = { s with port := rest } := by
  rw [State.takeCycle, hport, List.tail_cons]

theorem portAction_of_command (hport : s.port = c :: rest) (hrst : c.rst = false)
    (hvalid : c.cmdValid = true) : s.portAction = .command c.cmd := by
  simp [State.portAction, hport, hrst, hvalid]

theorem portAction_of_no_command (hport : s.port = c :: rest) (hrst : c.rst = false)
    (hvalid : c.cmdValid = false) : s.portAction = .idle := by
  simp [State.portAction, hport, hrst, hvalid]

theorem portAction_of_port_nil (hport : s.port = []) : s.portAction = .idle := by
  rw [State.portAction, hport]

theorem step_of_portAction_command {w : CmdWord} (h : s.portAction = .command w) :
    step s = runCommand w s.takeCycle := by
  rw [step, h]

theorem step_of_portAction_idle (h : s.portAction = .idle) : step s = .next s.takeCycle.idleCycle := by
  rw [step, h]

end

/-- Settles O8: the cycle's action is the command, and its word decodes. -/
theorem stepRunsTheDecodedCommand : Obligations.StepRunsTheDecodedCommand := by
  intro s c rest i hport hrst hvalid hdecode
  rw [step_of_portAction_command (portAction_of_command hport hrst hvalid), takeCycle_of_port_cons hport,
    runCommand, hdecode]

/-- Settles O9: with nothing presented, or no command in the cycle, the action is idle. -/
theorem cycleWithoutCommandHoldsTheState : Obligations.CycleWithoutCommandHoldsTheState := by
  refine fun s => ⟨fun hport => ?nothing, fun c rest hport hrst hvalid => ?idle⟩
  case nothing =>
    rw [step_of_portAction_idle (portAction_of_port_nil hport), State.takeCycle, hport]
    rfl
  case idle =>
    rw [step_of_portAction_idle (portAction_of_no_command hport hrst hvalid), takeCycle_of_port_cons hport]
    rfl

end Sys2Proof.Machine
end

section
/-! PROOFS of the fixed-point family (40_fixed_point.md): the datum of each FX command in its bit-vector form
(R97 to R102), and the laws of FX_MUL and FX_DIV (R103). -/

namespace Sys2Proof.Machine

/-! ### Legal and refused formats (R74) -/

section
variable {f : BitVec 8} (a b : Word) (s : State)

theorem legalFormat_of_le {n : Nat} (h : 32 ≤ n) : legalFormat n = false := decide_eq_false (Nat.not_lt.2 h)

theorem formatLegal_of_lt {n : Nat} (h : n < 32) : formatLegal n = true := decide_eq_true h

theorem exec_fxMul_of_legal (hf : f.toNat < 32) :
    exec (.fxMul f a b) s = .next (s.respond (fxMul f.toNat a b)) := by
  rw [exec_eq_after, after_fxMul, if_pos (formatLegal_of_lt hf)]

theorem exec_fxDiv_of_legal (hf : f.toNat < 32) :
    exec (.fxDiv f a b) s = .next (s.respond (fxDiv s.cfg f.toNat a b)) := by
  rw [exec_eq_after, after_fxDiv, if_pos (formatLegal_of_lt hf)]

theorem exec_fxCvt_of_legal (hf : f.toNat < 32) (hb : b.toNat < 32) :
    exec (.fxCvt f a b) s = .next (s.respond (fxCvt f.toNat b.toNat a)) := by
  rw [exec_eq_after, after_fxCvt_of_legal s a hf hb]

/-- A command with illegal operands is answered ILLEGAL_OPERAND and datum 0 (R187). -/
theorem exists_illegalOperand_rsp {i : Instr} (h : i.wellFormed = false) :
    ∃ t, exec i s = .next t ∧ t.rsp = ⟨true, .illegalOperand, 0#32⟩ :=
  ⟨_, exec_of_not_wellFormed i s h, rfl⟩

end

/-! ### From exact integers to bit vectors (R14, R103)

Each 64-bit operation is `BitVec.ofInt` of an integer result; the product and the scaled dividend are exact in
64 bits, and narrowing to 32 bits is the one `wrap`. -/

/-- Narrowing to 64 bits first makes no difference to the low 32. -/
theorem setWidth_ofInt_eq_wrap (n : Int) : (BitVec.ofInt 64 n).setWidth 32 = wrap n := by
  apply BitVec.eq_of_toNat_eq
  rw [BitVec.toNat_setWidth, BitVec.toNat_ofInt, BitVec.toNat_ofInt]
  omega

/-- The arithmetic right shift is the floor of the quotient. -/
theorem sshiftRight_eq_ofInt_div {w : Nat} (v : BitVec w) (n : Nat) :
    v.sshiftRight n = BitVec.ofInt w (v.toInt / 2 ^ n) := by
  rw [BitVec.sshiftRight, Int.shiftRight_eq_div_pow]
  norm_cast

/-- Scaling by a power of two is a left shift. -/
theorem ofInt_mul_two_pow {w : Nat} (v : BitVec w) (n : Nat) :
    BitVec.ofInt w (v.toInt * 2 ^ n) = v <<< n := by
  have hpow : BitVec.ofInt w (2 ^ n) = BitVec.twoPow w n := by
    apply BitVec.eq_of_toNat_eq
    rw [BitVec.toNat_twoPow]
    exact_mod_cast congrArg BitVec.toNat (BitVec.ofInt_natCast w (2 ^ n))
  rw [BitVec.ofInt_mul, BitVec.ofInt_toInt, hpow, BitVec.shiftLeft_eq_mul_twoPow]

theorem sdiv_eq_ofInt_tdiv {w : Nat} (v u : BitVec w) :
    v.sdiv u = BitVec.ofInt w (v.toInt.tdiv u.toInt) := by
  apply BitVec.eq_of_toInt_eq
  rw [BitVec.toInt_sdiv, BitVec.toInt_ofInt]

theorem abs_toInt_le (x : Word) : |x.toInt| ≤ 2 ^ 31 := by
  have := toInt_range x
  rw [abs_le]
  omega

/-- A word times an integer of at most 32 signed bits fits in 64 signed bits (R92, R93). -/
theorem toInt_ofInt_mul (x : Word) {n : Int} (hn : |n| ≤ 2 ^ 31) :
    (BitVec.ofInt 64 (x.toInt * n)).toInt = x.toInt * n := by
  have habs : |x.toInt * n| ≤ 2 ^ 31 * 2 ^ 31 := by
    rw [abs_mul]
    exact mul_le_mul (abs_toInt_le x) hn (abs_nonneg n) (by decide)
  obtain ⟨hlo, hhi⟩ := abs_le.1 habs
  exact BitVec.toInt_ofInt_eq_self (by decide) (by omega) (by omega)

theorem toInt_signExtend_mul (x y : Word) :
    (x.signExtend 64 * y.signExtend 64).toInt = x.toInt * y.toInt := by
  rw [BitVec.signExtend, BitVec.signExtend, ← BitVec.ofInt_mul, toInt_ofInt_mul x (abs_toInt_le y)]

theorem toInt_signExtend_shiftLeft (x : Word) {F : Nat} (hF : F < 32) :
    (x.signExtend 64 <<< F).toInt = x.toInt * 2 ^ F := by
  have hscale : |(2 : Int) ^ F| ≤ 2 ^ 31 := by
    rw [abs_of_pos (by positivity)]
    exact pow_le_pow_right₀ (by decide) (by omega)
  rw [← ofInt_mul_two_pow, BitVec.toInt_signExtend_of_le (by decide), toInt_ofInt_mul x hscale]

/-! ### FX_MUL (R92, R99) -/

theorem fxMul_eq_shiftedProduct (F : Nat) (x y : Word) :
    fxMul F x y = ((x.signExtend 64 * y.signExtend 64).sshiftRight F).setWidth 32 := by
  rw [sshiftRight_eq_ofInt_div, setWidth_ofInt_eq_wrap, toInt_signExtend_mul, fxMul]

/-- Settles O18: the 64-bit product is the exact product, and its shift fits as well. -/
theorem fxMulIsTheShiftedDoubleWidthProduct : Obligations.FxMulIsTheShiftedDoubleWidthProduct := by
  refine ⟨decode_packCmd 0x12#8, fun f a b s hf => ?_, fun f a b s hf => ?_⟩
  · rw [exec_fxMul_of_legal a b s hf, fxMul_eq_shiftedProduct]
    rfl
  · exact exists_illegalOperand_rsp s (legalFormat_of_le hf)

/-! ### The laws of FX_MUL (R103) -/

theorem fxMul_comm (F : Nat) (x y : Word) : fxMul F x y = fxMul F y x := by
  rw [fxMul, Int.mul_comm, fxMul]

/-- 1.0 is representable up to format 30. -/
theorem one_shiftLeft_toInt {F : Nat} (hF : F ≤ 30) : (1#32 <<< F).toInt = 2 ^ F := by
  rw [show 1#32 <<< F = BitVec.twoPow 32 F from rfl, BitVec.toInt_twoPow, if_neg (by omega),
    if_neg (by omega)]

theorem fxMul_one {F : Nat} (hF : F ≤ 30) (x : Word) : fxMul F x (1#32 <<< F) = x := by
  rw [fxMul, s32, s32, one_shiftLeft_toInt hF, Int.mul_ediv_cancel _ (by positivity), wrap,
    BitVec.ofInt_toInt]

theorem fxMul_zero (x y : Word) : fxMul 0 x y = x * y := imul_eq_mul x y

theorem exec_fxMul_comm (f : BitVec 8) (x y : Word) (s : State) :
    exec (.fxMul f x y) s = exec (.fxMul f y x) s := by
  rw [exec_eq_after, exec_eq_after, after_fxMul, after_fxMul, fxMul_comm]

/-! ### FX_DIV (R93, R100) -/

section
variable (c : Config) {y : Word}

theorem fxDiv_of_ne_zero (F : Nat) (x : Word) (hy : y ≠ 0#32) :
    fxDiv c F x y = wrap ((x.toInt * 2 ^ F).tdiv y.toInt) := if_neg hy

theorem fxDiv_zero (F : Nat) (x : Word) : fxDiv c F x 0#32 = div0 c x F := if_pos rfl

theorem fxDiv_eq_truncatedQuotient (x : Word) {F : Nat} (hF : F < 32) (hy : y ≠ 0#32) :
    fxDiv c F x y = ((x.signExtend 64 <<< F).sdiv (y.signExtend 64)).setWidth 32 := by
  rw [fxDiv_of_ne_zero c F x hy, sdiv_eq_ofInt_tdiv, setWidth_ofInt_eq_wrap,
    toInt_signExtend_shiftLeft x hF, BitVec.toInt_signExtend_of_le (by decide)]

/-- Truncation toward zero is odd in the dividend (R103). -/
theorem fxDiv_neg_left (F : Nat) {x : Word} (hx : x ≠ 0x80000000#32) (hy : y ≠ 0#32) :
    fxDiv c F (-x) y = -fxDiv c F x y := by
  rw [fxDiv_of_ne_zero c F _ hy, fxDiv_of_ne_zero c F _ hy, BitVec.toInt_neg_of_ne_intMin hx,
    Int.neg_mul, Int.neg_tdiv, wrap, BitVec.ofInt_neg]

/-- Truncation toward zero is odd in the divisor (R103). -/
theorem fxDiv_neg_right (F : Nat) (x : Word) (hmin : y ≠ 0x80000000#32) (hy : y ≠ 0#32) :
    fxDiv c F x (-y) = -fxDiv c F x y := by
  rw [fxDiv_of_ne_zero c F _ hy, fxDiv_of_ne_zero c F _ (neg_ne_zero.2 hy),
    BitVec.toInt_neg_of_ne_intMin hmin, Int.tdiv_neg, wrap, BitVec.ofInt_neg]

end

theorem div0_reference (a : Word) (F : Nat) : div0 Config.reference a F = 0#32 := rfl

/-- Settles O20: the scaled dividend is exact in 64 bits, so the 64-bit quotient is the truncated one and keeps
its low 32 bits. -/
theorem fxDivTruncatesTheScaledQuotient : Obligations.FxDivTruncatesTheScaledQuotient := by
  refine ⟨decode_packCmd 0x13#8, fun f a b s hf hb => ?quotient, fun f a s hf => ?zero,
    fun f a b s hf => ?refused, div0_reference⟩
  case quotient =>
    rw [exec_fxDiv_of_legal a b s hf, fxDiv_eq_truncatedQuotient s.cfg a hf hb]
    rfl
  case zero =>
    rw [exec_fxDiv_of_legal a 0#32 s hf, fxDiv_zero]
    rfl
  case refused => exact exists_illegalOperand_rsp s (legalFormat_of_le hf)

/-- Settles O19: the integer product commutes and cancels the scale of 1.0, and truncation is odd. -/
theorem fixedPointLaws : Obligations.FixedPointLaws := by
  refine ⟨fun f x y s => ⟨exec_fxMul_comm f x y s, fun hf => ?unit, ?integer⟩,
    fun c F x y hx hmin hy => ⟨fxDiv_neg_left c F hx hy, fxDiv_neg_right c F x hmin hy⟩⟩
  case unit =>
    rw [exec_fxMul_of_legal x _ s (by omega), fxMul_one hf]
    rfl
  case integer =>
    rw [exec_fxMul_of_legal x y s (by decide), show (0#8).toNat = 0 from rfl, fxMul_zero]
    rfl

/-! ### FX_CVT (R95, R102) -/

theorem fxCvt_up {Ff Ft : Nat} (h : Ff ≤ Ft) (x : Word) : fxCvt Ff Ft x = x <<< (Ft - Ff) := by
  rw [fxCvt, if_pos h, wrap, ofInt_mul_two_pow]

theorem fxCvt_down {Ff Ft : Nat} (h : Ft < Ff) (x : Word) :
    fxCvt Ff Ft x = x.sshiftRight (Ff - Ft) := by
  rw [fxCvt, if_neg (by omega), sshiftRight_eq_ofInt_div]

/-- Settles O22: up by a left shift, down by the floor of the quotient, refused on either format. -/
theorem fxCvtShiftsBetweenFormats : Obligations.FxCvtShiftsBetweenFormats := by
  refine ⟨decode_packCmd 0x15#8, fun f a b s hf hb => ⟨fun h => ?up, fun h => ?down⟩,
    fun f a b s h => exists_illegalOperand_rsp s ?refused⟩
  case up =>
    rw [exec_fxCvt_of_legal a b s hf hb, fxCvt_up h]
    rfl
  case down =>
    rw [exec_fxCvt_of_legal a b s hf hb, fxCvt_down h]
    rfl
  case refused =>
    rw [Instr.wellFormed, Bool.and_eq_false_iff]
    exact h.imp legalFormat_of_le legalFormat_of_le

/-! ### FX_ADD and FX_SUB (R91, R97, R98) -/

/-- Settles O17: a sum of exact integers, wrapped once, is the sum of the patterns. -/
theorem fxAddAndFxSubWrap : Obligations.FxAddAndFxSubWrap := by
  refine ⟨decode_packCmd 0x10#8, fun a b s => ?add, decode_packCmd 0x11#8, fun a b s => ?sub,
    fun x y => ⟨BitVec.toInt_ofInt _, BitVec.toInt_ofInt _⟩⟩
  case add =>
    rw [exec_eq_after, after_fxAdd, fxAdd_eq_add]
    rfl
  case sub =>
    rw [exec_eq_after, after_fxSub, fxSub_eq_sub]
    rfl

/-! ### FX_CMP (R94, R101) -/

theorem fxCmp_of_slt {x y : Word} (h : x.slt y = true) : fxCmp x y = 0xFFFFFFFF#32 := by
  rw [fxCmp_eq_slt, if_pos h]

theorem fxCmp_self (x : Word) : fxCmp x x = 0#32 := by
  rw [fxCmp, if_neg (lt_irrefl _), if_pos rfl]
  rfl

theorem fxCmp_of_slt_swap {x y : Word} (h : y.slt x = true) : fxCmp x y = 1#32 := by
  have hlt : y.toInt < x.toInt := BitVec.slt_iff_toInt_lt.1 h
  rw [fxCmp, if_neg hlt.not_gt, if_neg hlt.ne']
  rfl

/-- Settles O21: the three clauses are the three branches of the comparison. -/
theorem fxCmpIsTheSignedOrder : Obligations.FxCmpIsTheSignedOrder := by
  refine ⟨decode_packCmd 0x14#8, fun a b s => ⟨fun h => ?below, ?equal, fun h => ?above⟩⟩
  case below =>
    rw [exec_eq_after, after_fxCmp, fxCmp_of_slt h]
    rfl
  case equal =>
    rintro rfl
    rw [exec_eq_after, after_fxCmp, fxCmp_self]
    rfl
  case above =>
    rw [exec_eq_after, after_fxCmp, fxCmp_of_slt_swap h]
    rfl

end Sys2Proof.Machine
end

section
/-! PROOFS of the phasor family (41_phasor.md): what PH_SETPERIOD writes (R111), one advance and a run of PH_PROC
calls (R112), the range of a correctly used Phasor (R114) and its count of wraps (R115), and what happens
outside that range (R113). -/

namespace Sys2Proof.Machine

/-! ### PH_SETPERIOD (R111) -/

section
variable (c : Config) {a : Word} (b : Word)

/-- The two wraps of an increment, of the quotient and of the product, are one. -/
theorem periodDelta_of_ne_zero (ha : a ≠ 0#32) :
    periodDelta c a b = BitVec.ofInt 32 (Int.tdiv 268435456 a.toInt * b.toInt) := by
  rw [periodDelta, idiv, fxDiv_of_ne_zero c 0 one ha, imul_eq_mul, BitVec.ofInt_mul, BitVec.ofInt_toInt,
    one_toInt]
  rfl

theorem periodDelta_of_pos (ha : 0 < a.toInt) :
    periodDelta c a b = BitVec.ofInt 32 (268435456 / a.toInt * b.toInt) := by
  have hne : a ≠ 0#32 := by rintro rfl; simp at ha
  rw [periodDelta_of_ne_zero c b hne, Int.tdiv_eq_ediv_of_nonneg (by decide)]

theorem periodDelta_of_neg (ha : a.toInt < 0) :
    periodDelta c a b = BitVec.ofInt 32 (-(268435456 / -a.toInt) * b.toInt) := by
  have hne : a ≠ 0#32 := by rintro rfl; simp at ha
  rw [periodDelta_of_ne_zero c b hne, Int.tdiv_eq_ediv_of_nonneg (by decide), Int.ediv_neg, neg_neg]

theorem periodDelta_zero : periodDelta c 0#32 b = div0 c 0x10000000#32 0 * b := by
  rw [periodDelta, idiv, fxDiv_zero, imul_eq_mul]

/-- The increment of a period of at least `b` samples lies in 0 .. 1.0 and needs no wrap (R114). -/
theorem periodDelta_toInt_of_le {b : Word} (ha : 0 < a.toInt) (hb : 0 ≤ b.toInt) (hba : b.toInt ≤ a.toInt) :
    (periodDelta c a b).toInt = 268435456 / a.toInt * b.toInt ∧
      0 ≤ (periodDelta c a b).toInt ∧ (periodDelta c a b).toInt ≤ 268435456 := by
  have hq : 0 ≤ 268435456 / a.toInt := Int.ediv_nonneg (by decide) ha.le
  have hlo : 0 ≤ 268435456 / a.toInt * b.toInt := mul_nonneg hq hb
  have hhi : 268435456 / a.toInt * b.toInt ≤ 268435456 :=
    calc 268435456 / a.toInt * b.toInt ≤ 268435456 / a.toInt * a.toInt := mul_le_mul_of_nonneg_left hba hq
      _ ≤ 268435456 := Int.ediv_mul_le _ ha.ne'
  have hexact : (periodDelta c a b).toInt = 268435456 / a.toInt * b.toInt := by
    rw [periodDelta_of_pos c b ha]
    exact wrap_toInt _ (by omega) (by omega)
  exact ⟨hexact, hexact ▸ hlo, hexact ▸ hhi⟩

end

/-- Settles O25: the divisor's sign decides what the truncated quotient is. -/
theorem phSetPeriodScalesTheReciprocal : Obligations.PhSetPeriodScalesTheReciprocal := by
  refine ⟨decode_packCmd 0x31#8, fun a b s => ⟨fun ha => ?positive, fun ha => ?negative, ?zero⟩⟩
  case positive =>
    rw [exec_eq_after, after_phSetPeriod, periodDelta_of_pos s.cfg b ha]
    rfl
  case negative =>
    rw [exec_eq_after, after_phSetPeriod, periodDelta_of_neg s.cfg b ha]
    rfl
  case zero =>
    rintro rfl
    rw [exec_eq_after, after_phSetPeriod, periodDelta_zero]
    rfl

/-! ### PH_PROC (R112) -/

theorem phaseNext_eq_slt (u : Phasor) :
    phaseNext u =
      if one.slt (u.phase + u.delta) then u.phase + u.delta - one else u.phase + u.delta := by
  simp only [phaseNext, fxAdd_eq_add, fxSub_eq_sub, s32, BitVec.slt_iff_toInt_lt]

/-- Settles O26: sum and difference are those of the patterns, and the test is their signed order. -/
theorem phProcReturnsThenAdvances : Obligations.PhProcReturnsThenAdvances := by
  refine ⟨decode_packCmd 0x30#8, fun s => ?_⟩
  rw [exec_eq_after, after_phProc, phaseNext_eq_slt]
  rfl

/-! ### A correctly used Phasor (R114) -/

/-- One advance of a correctly used Phasor stays in 0 .. 1.0. -/
theorem phaseNext_mem_unit (u : Phasor) (h1 : 0 ≤ u.phase.toInt) (h2 : u.phase.toInt ≤ 268435456)
    (h3 : 0 ≤ u.delta.toInt) (h4 : u.delta.toInt ≤ 268435456) :
    0 ≤ (phaseNext u).toInt ∧ (phaseNext u).toInt ≤ 268435456 := by
  rw [phaseNext_toInt u h1 h2 h3 h4]
  split <;> omega

/-- Settles O27: the sum of two values up to 1.0 is below 8.0, and the increment is at most 1.0. -/
theorem phasorStaysInTheClosedUnitInterval : Obligations.PhasorStaysInTheClosedUnitInterval := by
  refine ⟨fun s h1 h2 h3 h4 => ⟨_, exec_eq_after _ _, ?_⟩, fun a b s ha hb hba =>
    ⟨_, exec_eq_after _ _, (periodDelta_toInt_of_le s.cfg (by omega) hb hba).2⟩⟩
  obtain ⟨hlo, hhi⟩ := phaseNext_mem_unit s.ph h1 h2 h3 h4
  exact ⟨hlo, hhi, h1, h2, phaseNext_toInt s.ph h1 h2 h3 h4⟩

/-! ### A run of PH_PROC calls -/

section
variable (n : Nat) (s : State)

/-- Each call returns the phase the calls before it left (R112). -/
theorem afterN_succ_phProc_rsp :
    (afterN .phProc (n + 1) s).rsp = ⟨true, .ok, (afterN .phProc n s).ph.phase⟩ := rfl

theorem afterN_phProc_delta : (afterN .phProc n s).ph.delta = s.ph.delta := by
  induction n with
  | zero => rfl
  | succ n ih => exact ih

theorem afterN_succ_phProc_phase :
    (afterN .phProc (n + 1) s).ph.phase = phaseNext ⟨(afterN .phProc n s).ph.phase, s.ph.delta⟩ := by
  rw [← afterN_phProc_delta n s]
  rfl

end

/-! ### The count of wraps (R115) -/

/-- The calls among the first `n` after which the phase is smaller, as O28 counts them. -/
def phasorWraps (s : State) (n : Nat) : Nat :=
  ((List.range n).filter (fun k =>
    decide ((afterN .phProc (k + 1) s).ph.phase.toInt < (afterN .phProc k s).ph.phase.toInt))).length

theorem phasorWraps_succ (s : State) (n : Nat) :
    phasorWraps s (n + 1) = phasorWraps s n +
      if (afterN .phProc (n + 1) s).ph.phase.toInt < (afterN .phProc n s).ph.phase.toInt then 1 else 0 := by
  simp only [phasorWraps, ← List.countP_eq_length_filter, List.range_succ, List.countP_append,
    List.countP_singleton, decide_eq_true_eq]

section
variable {s : State} (hphase : s.ph.phase = 0#32) (h1 : 0 < s.ph.delta.toInt)
  (h2 : s.ph.delta.toInt < 268435456)
include hphase h1 h2

/-- The phase is the unwrapped sum less 1.0 for each wrap; after the first call it is strictly positive. -/
theorem afterN_phProc_phase_add_wraps (n : Nat) :
    0 ≤ (afterN .phProc n s).ph.phase.toInt ∧ (afterN .phProc n s).ph.phase.toInt ≤ 268435456 ∧
      (1 ≤ n → 0 < (afterN .phProc n s).ph.phase.toInt) ∧
      (afterN .phProc n s).ph.phase.toInt + 268435456 * phasorWraps s n = n * s.ph.delta.toInt := by
  induction n with
  | zero => simp [afterN, hphase, phasorWraps]
  | succ n ih =>
    obtain ⟨hlo, hhi, -, hsum⟩ := ih
    have hnext := phaseNext_toInt ⟨(afterN .phProc n s).ph.phase, s.ph.delta⟩ hlo hhi h1.le h2.le
    rw [← afterN_succ_phProc_phase] at hnext
    dsimp only at hnext
    rw [phasorWraps_succ]
    push_cast [add_one_mul]
    by_cases hwrap : 268435456 < (afterN .phProc n s).ph.phase.toInt + s.ph.delta.toInt
    · rw [if_pos hwrap] at hnext
      rw [if_pos (by omega)]
      omega
    · rw [if_neg hwrap] at hnext
      rw [if_neg (by omega)]
      omega

theorem phasorWraps_eq {n : Nat} (hn : 1 ≤ n) :
    (phasorWraps s n : Int) = (n * s.ph.delta.toInt + 268435455) / 268435456 - 1 := by
  obtain ⟨-, hhi, hpos, hsum⟩ := afterN_phProc_phase_add_wraps hphase h1 h2 n
  have := hpos hn
  omega

theorem afterN_phProc_phase_toInt {n : Nat} (hn : 1 ≤ n) :
    (afterN .phProc n s).ph.phase.toInt = (n * s.ph.delta.toInt - 1) % 268435456 + 1 := by
  obtain ⟨-, hhi, hpos, hsum⟩ := afterN_phProc_phase_add_wraps hphase h1 h2 n
  have := hpos hn
  omega

end

/-- The increment of a period is short of its multiple of 1.0 by less than 1.0 over the whole period (R115). -/
theorem period_mul_floor_bounds {a b : Int} (ha : 0 < a) (hb : 1 ≤ b) (h : (a - 1) * b < 268435456) :
    268435456 * (b - 1) < a * (268435456 / a * b) ∧ a * (268435456 / a * b) ≤ 268435456 * b := by
  have hdiv := Int.mul_ediv_add_emod 268435456 a
  have hrem_lo := Int.emod_nonneg 268435456 ha.ne'
  have hrem_hi := Int.emod_lt_of_pos 268435456 ha
  have hshort : 268435456 % a * b ≤ (a - 1) * b := mul_le_mul_of_nonneg_right (by omega) (by omega)
  have hshort0 : 0 ≤ 268435456 % a * b := mul_nonneg hrem_lo (by omega)
  have hsplit : a * (268435456 / a * b) = 268435456 * b - 268435456 % a * b := by
    rw [← mul_assoc, ← sub_mul]
    congr 1
    omega
  rw [hsplit]
  constructor <;> omega

/-- Settles O28: phase and count of wraps from one balance, kept by every call; over a whole period the
unwrapped sum lies in the last unit below `multiplier`. -/
theorem phasorWrapCount : Obligations.PhasorWrapCount := by
  refine ⟨fun s n hn hphase h1 h2 => ⟨afterN_phProc_phase_toInt hphase h1 h2 hn,
    phasorWraps_eq hphase h1 h2 hn⟩, fun a b s hphase hb hba hprod => ?_⟩
  intro t
  have ha : 0 < a.toInt := by omega
  have hdelta : t.ph.delta.toInt = 268435456 / a.toInt * b.toInt :=
    (periodDelta_toInt_of_le s.cfg ha (by omega) hba.le).1
  obtain ⟨hlo, hhi⟩ := period_mul_floor_bounds ha hb hprod
  rw [← hdelta] at hlo hhi
  have hpos : 0 < t.ph.delta.toInt := (mul_pos_iff_of_pos_left ha).1 (by omega)
  have hlt : t.ph.delta.toInt < 268435456 :=
    lt_of_mul_lt_mul_left (show a.toInt * t.ph.delta.toInt < a.toInt * 268435456 by omega) ha.le
  have hcast : (a.toNat : Int) = a.toInt :=
    (BitVec.toInt_eq_toNat_of_lt (BitVec.toInt_pos_iff.1 ha.le)).symm
  refine ⟨hlo, hhi, ?_⟩
  have hcount := phasorWraps_eq (s := t) hphase hpos hlt (n := a.toNat) (by omega)
  rw [hcast, phasorWraps] at hcount
  omega

/-! ### Outside the range (R113) -/

/-- From phase 0 with increment 1.0 the phase rests on 1.0, which is not strictly above 1.0. -/
theorem afterN_phProc_phase_of_one {s : State} (hphase : s.ph.phase = 0#32)
    (hdelta : s.ph.delta = 0x10000000#32) (n : Nat) : (afterN .phProc (n + 1) s).ph.phase = one := by
  induction n with
  | zero =>
    rw [afterN_succ_phProc_phase, afterN, hphase, hdelta]
    decide
  | succ n ih =>
    rw [afterN_succ_phProc_phase, ih, hdelta]
    decide

/-- The phases of increment 2.0: up by 1.0 a call to 6.0, where the sum overflows to -8.0, then up by 2.0. -/
def climbPhase (r : Nat) : Word :=
  BitVec.ofInt 32 (if r ≤ 6 then (r : Int) * 268435456 else ((r : Int) - 7) * 536870912 - 2147483648)

theorem phaseNext_climbPhase :
    ∀ r < 11, phaseNext ⟨climbPhase r, 0x20000000#32⟩ = climbPhase ((r + 1) % 11) := by decide

theorem afterN_phProc_phase_of_two {s : State} (hphase : s.ph.phase = 0#32)
    (hdelta : s.ph.delta = 0x20000000#32) (n : Nat) :
    (afterN .phProc n s).ph.phase = climbPhase (n % 11) := by
  induction n with
  | zero => exact hphase.trans (by decide)
  | succ n ih =>
    rw [afterN_succ_phProc_phase, ih, hdelta, phaseNext_climbPhase (n % 11) (Nat.mod_lt n (by decide)),
      Nat.mod_add_mod]

/-- At or below 0 a negative increment is added as it is: no 1.0 is put back. -/
theorem phaseNext_toInt_of_nonpos (u : Phasor) (h1 : u.phase.toInt ≤ 0) (h2 : u.delta.toInt < 0)
    (h3 : -2147483648 ≤ u.phase.toInt + u.delta.toInt) :
    (phaseNext u).toInt = u.phase.toInt + u.delta.toInt := by
  have hsum : (fxAdd u.phase u.delta).toInt = u.phase.toInt + u.delta.toInt :=
    wrap_toInt _ h3 (by simp only [s32]; omega)
  rw [phaseNext, if_neg, hsum]
  simp only [s32, hsum, one_toInt]
  omega

theorem afterN_phProc_phase_of_neg {s : State} (hphase : s.ph.phase = 0#32) (hneg : s.ph.delta.toInt < 0)
    (n : Nat) (hfits : -2147483648 ≤ n * s.ph.delta.toInt) :
    (afterN .phProc n s).ph.phase.toInt = n * s.ph.delta.toInt := by
  induction n with
  | zero => simp [afterN, hphase]
  | succ n ih =>
    push_cast [add_one_mul] at hfits ⊢
    have hbelow : n * s.ph.delta.toInt ≤ 0 := mul_nonpos_of_nonneg_of_nonpos (by omega) hneg.le
    have hn := ih (by omega)
    have hnext := phaseNext_toInt_of_nonpos ⟨(afterN .phProc n s).ph.phase, s.ph.delta⟩
      (hn.trans_le hbelow) hneg (by dsimp only; omega)
    rw [afterN_succ_phProc_phase, hnext, hn]

/-- Settles O29: each run of calls is its sequence of phases, shown one call later. -/
theorem phasorOutsideItsRangeIsNotCorrected : Obligations.PhasorOutsideItsRangeIsNotCorrected := by
  refine ⟨fun s n hphase hdelta => ⟨?first, ?rest⟩, fun s n hphase hdelta => ?two,
    fun s n hphase hneg hfits => ⟨afterN_phProc_phase_of_neg hphase hneg n hfits, ?below⟩,
    fun s h1 h2 h3 => ⟨_, exec_eq_after _ _, phaseNext_toInt_of_nonpos s.ph h1 h2 h3, rfl, rfl⟩⟩
  case first => rw [afterN_succ_phProc_rsp, afterN, hphase]
  case rest => rw [afterN_succ_phProc_rsp, afterN_phProc_phase_of_one hphase hdelta]
  case two =>
    rw [afterN_succ_phProc_rsp, afterN_phProc_phase_of_two hphase hdelta]
    rfl
  case below =>
    rw [afterN_succ_phProc_rsp, ← afterN_phProc_phase_of_neg hphase hneg n hfits, BitVec.ofInt_toInt]

end Sys2Proof.Machine
end

section
/-! PROOFS of the envelope family (42_adenv.md): what ENV_START, ENV_STOP and ENV_PROC do (R121 to R123), the
transitions of ENV_STATE over all commands (R120), the length of a rise and of a fall (R124), the held envelope
(R125), and the range of the phase (R128). -/

namespace Sys2Proof.Machine

/-! ### ENV_START and ENV_STOP (R121, R122) -/

theorem envStopped_of_held_rising {u : Envelope} (h : u.state = .rising ∧ u.hold = true) :
    envStopped u = .falling := if_pos h

theorem envStopped_of_not_held_rising {u : Envelope} (h : ¬ (u.state = .rising ∧ u.hold = true)) :
    envStopped u = u.state := if_neg h

/-- Settles O30: both commands answer 0 and write ENV_STATE at most; an ineffective stop writes it back. -/
theorem envStartAndEnvStop : Obligations.EnvStartAndEnvStop := by
  refine ⟨decode_packCmd 0x41#8, decode_packCmd 0x42#8, fun s => exec_eq_after _ s,
    fun s => ⟨fun h => ?held, fun h => ?ineffective⟩⟩
  case held =>
    rw [exec_eq_after, after_envStop, envStopped_of_held_rising h]
    rfl
  case ineffective =>
    rw [exec_eq_after, after_envStop, envStopped_of_not_held_rising h]
    rfl

/-! ### One ENV_PROC (R123) -/

theorem envUp_eq_mul (c : Config) (u : Envelope) : envUp c u = deltaConstRaw c * u.attack := imul_eq_mul ..

theorem envDown_eq_mul (c : Config) (u : Envelope) : envDown c u = deltaConstRaw c * u.decay := imul_eq_mul ..

section
variable {c : Config} {u : Envelope}

theorem envNext_of_rise_up_to_one (hstate : u.state = .rising) (h : (u.phase + envUp c u).toInt ≤ 268435456) :
    envNext c u = { u with phase := u.phase + envUp c u } := by
  simp only [envNext, hstate, fxAdd_eq_add, s32, one_toInt, if_neg h.not_gt]

theorem envNext_of_rise_past_one (hstate : u.state = .rising) (h : 268435456 < (u.phase + envUp c u).toInt) :
    envNext c u = { u with phase := one, state := if u.hold then .rising else .falling } := by
  simp only [envNext, hstate, fxAdd_eq_add, s32, one_toInt, if_pos h]

theorem envNext_of_fall_above_zero (hstate : u.state = .falling) (h : 0 < (u.phase - envDown c u).toInt) :
    envNext c u = { u with phase := u.phase - envDown c u } := by
  simp only [envNext, hstate, fxSub_eq_sub, s32, if_neg h.not_ge]

theorem envNext_of_fall_to_zero (hstate : u.state = .falling) (h : (u.phase - envDown c u).toInt ≤ 0) :
    envNext c u = { u with phase := 0#32, state := .waiting } := by
  simp only [envNext, hstate, fxSub_eq_sub, s32, if_pos h]

theorem envNext_of_waiting (hstate : u.state = .waiting) : envNext c u = u := by
  simp only [envNext, hstate]

end

/-- The test of the rise, as a pattern comparison. -/
theorem one_slt_iff (p : Word) : (0x10000000#32).slt p = true ↔ 268435456 < p.toInt :=
  BitVec.slt_iff_toInt_lt

/-- The test of the fall, as a pattern comparison. -/
theorem sle_zero_iff (p : Word) : p.sle 0#32 = true ↔ p.toInt ≤ 0 := BitVec.sle_iff_toInt_le

/-- Settles O31: each state of the envelope by its test. -/
theorem envProcAdvancesTheEnvelope : Obligations.EnvProcAdvancesTheEnvelope := by
  refine ⟨decode_packCmd 0x40#8, fun s => ?_⟩
  simp only [← envUp_eq_mul, ← envDown_eq_mul, one_slt_iff, sle_zero_iff, exec_eq_after, after_envProc]
  refine ⟨fun hstate => ?rising, fun hstate => ?falling, fun hstate => ?waiting⟩
  case rising =>
    by_cases h : 268435456 < (s.env.phase + envUp s.cfg s.env).toInt
    · rw [envNext_of_rise_past_one hstate h]
      cases hhold : s.env.hold <;> simp only [h, if_true, true_and] <;> rfl
    · rw [envNext_of_rise_up_to_one hstate (not_lt.1 h)]
      simp only [h, if_false, false_and, ← hstate]
      rfl
  case falling =>
    by_cases h : (s.env.phase - envDown s.cfg s.env).toInt ≤ 0
    · rw [envNext_of_fall_to_zero hstate h]
      simp only [h, if_true]
      rfl
    · rw [envNext_of_fall_above_zero hstate (not_le.1 h)]
      simp only [h, if_false, ← hstate]
      rfl
  case waiting =>
    rw [envNext_of_waiting hstate]
    rfl

/-! ### The transitions of ENV_STATE (R120) -/

theorem envNext_state_cases (c : Config) (u : Envelope) :
    (envNext c u).state = u.state ∨
    (u.state = .rising ∧ u.hold = false ∧ 268435456 < (u.phase + envUp c u).toInt ∧
      (envNext c u).state = .falling ∧ (envNext c u).phase = one) ∨
    (u.state = .falling ∧ (u.phase - envDown c u).toInt ≤ 0 ∧
      (envNext c u).state = .waiting ∧ (envNext c u).phase = 0#32) := by
  cases hstate : u.state with
  | rising =>
    by_cases h : 268435456 < (u.phase + envUp c u).toInt
    · rw [envNext_of_rise_past_one hstate h]
      cases hhold : u.hold with
      | false => exact .inr (.inl ⟨rfl, rfl, h, rfl, rfl⟩)
      | true => exact .inl rfl
    · rw [envNext_of_rise_up_to_one hstate (not_lt.1 h)]
      exact .inl hstate
  | falling =>
    by_cases h : (u.phase - envDown c u).toInt ≤ 0
    · rw [envNext_of_fall_to_zero hstate h]
      exact .inr (.inr ⟨rfl, h, rfl, rfl⟩)
    · rw [envNext_of_fall_above_zero hstate (not_le.1 h)]
      exact .inl hstate
  | waiting =>
    rw [envNext_of_waiting hstate]
    exact .inl hstate

/-- Settles O32: of the writes a command can make, three are to the envelope's state. -/
theorem envelopeTransitionsAreTheTables : Obligations.EnvelopeTransitionsAreTheTables := by
  intro i s t h
  simp only [← envUp_eq_mul, ← envDown_eq_mul, one_slt_iff, sle_zero_iff]
  obtain ⟨-, rfl⟩ | ⟨u, d, hu, rfl⟩ := refuse_or_writes h
  · exact .inl rfl
  simp only [respond_env]
  cases hu with
  | envProc =>
    obtain hsame | hrise | hfall := envNext_state_cases s.cfg s.env
    · exact .inl hsame
    · exact .inr (.inr (.inr (.inl ⟨rfl, hrise⟩)))
    · exact .inr (.inr (.inr (.inr ⟨rfl, hfall⟩)))
  | envStart => exact .inr (.inl ⟨rfl, rfl, rfl⟩)
  | envStop =>
    by_cases hheld : s.env.state = .rising ∧ s.env.hold = true
    · exact .inr (.inr (.inl ⟨rfl, hheld.1, hheld.2, envStopped_of_held_rising hheld, rfl⟩))
    · exact .inl (envStopped_of_not_held_rising hheld)
  | wrreg r v => exact .inl (writeReg_env_state r v s)
  | _ => exact .inl rfl

/-! ### A run of ENV_PROC calls (R124, R125) -/

theorem wrap_add (x : Int) (d : Word) : wrap x + d = wrap (x + d.toInt) := by
  rw [wrap, wrap, BitVec.ofInt_add, BitVec.ofInt_toInt]

theorem wrap_sub (x : Int) (d : Word) : wrap x - d = wrap (x - d.toInt) := by
  apply BitVec.eq_of_toInt_eq
  simp [BitVec.toInt_sub]

theorem afterN_envProc_cfg (n : Nat) (s : State) : (afterN .envProc n s).cfg = s.cfg := by
  induction n with
  | zero => rfl
  | succ n ih => exact ih

theorem afterN_envProc_env (n : Nat) (s : State) :
    (afterN .envProc n s).env = (envNext s.cfg)^[n] s.env := by
  induction n with
  | zero => rfl
  | succ n ih => rw [Function.iterate_succ_apply', ← ih, ← afterN_envProc_cfg n s]; rfl

section
variable {c : Config} {e : Envelope} {n : Nat}

section
variable {u : Int} (hup : (envUp c e).toInt = u) (hstate : e.state = .rising) (hphase : e.phase = 0#32)
  (h1 : 0 < u)
include hup hstate hphase h1

/-- A rise from 0 adds the speed at every call, as long as the sum is not above 1.0. -/
theorem iterate_envNext_rising (hn : n * u ≤ 268435456) :
    (envNext c)^[n] e = { e with phase := wrap (n * u) } := by
  induction n with
  | zero => simp [← hphase]
  | succ n ih =>
    push_cast [add_one_mul] at hn ⊢
    have hlo : 0 ≤ n * u := by positivity
    have hle : (wrap (n * u) + envUp c e).toInt ≤ 268435456 := by
      rw [wrap_add, hup, wrap_toInt _ (by omega) (by omega)]
      exact hn
    rw [Function.iterate_succ_apply', ih (by omega), ← hup, ← wrap_add, hup]
    exact envNext_of_rise_up_to_one hstate hle

/-- The call after the last step of a rise passes 1.0. -/
theorem iterate_envNext_rise_ends (hhold : e.hold = false) (h2 : u ≤ 268435456) (hn : n * u ≤ 268435456)
    (hpast : 268435456 < (n + 1) * u) :
    (envNext c)^[n + 1] e = { e with phase := one, state := .falling } := by
  have hlo : 0 ≤ n * u := by positivity
  rw [add_one_mul] at hpast
  have hgt : 268435456 < (wrap (n * u) + envUp c e).toInt := by
    rw [wrap_add, hup, wrap_toInt _ (by omega) (by omega)]
    exact hpast
  rw [Function.iterate_succ_apply', iterate_envNext_rising hup hstate hphase h1 hn]
  refine Eq.trans (envNext_of_rise_past_one hstate hgt) ?_
  rw [hhold]
  rfl

/-- The floor counts the calls of a rise that do not pass 1.0. -/
theorem rise_takes_counted_calls (hhold : e.hold = false) (h2 : u ≤ 268435456) :
    (∀ n : Nat, (n : Int) ≤ 268435456 / u →
      ((envNext c)^[n] e).state = .rising ∧ ((envNext c)^[n] e).phase.toInt = n * u) ∧
    ((envNext c)^[(268435456 / u).toNat + 1] e).state = .falling ∧
    ((envNext c)^[(268435456 / u).toNat + 1] e).phase = one := by
  have hfloor : ((268435456 / u).toNat : Int) = 268435456 / u :=
    Int.toNat_of_nonneg (Int.ediv_nonneg (by decide) h1.le)
  refine ⟨fun n hn => ?_, ?_⟩
  · have hle : n * u ≤ 268435456 := (Int.le_ediv_iff_mul_le h1).1 hn
    have hlo : 0 ≤ n * u := by positivity
    rw [iterate_envNext_rising hup hstate hphase h1 hle]
    exact ⟨hstate, wrap_toInt _ (by omega) (by omega)⟩
  · rw [iterate_envNext_rise_ends hup hstate hphase h1 hhold h2
      (by rw [hfloor]; exact Int.ediv_mul_le _ h1.ne')
      (by rw [hfloor]; exact Int.lt_ediv_add_one_mul_self _ h1)]
    exact ⟨rfl, rfl⟩

end

section
variable {v : Int} (hdown : (envDown c e).toInt = v) (hstate : e.state = .falling) (hphase : e.phase = one)
  (h1 : 0 < v)
include hdown hstate hphase h1

/-- A fall from 1.0 subtracts the speed at every call, as long as the difference is above 0. -/
theorem iterate_envNext_falling (hn : n * v < 268435456) :
    (envNext c)^[n] e = { e with phase := wrap (268435456 - n * v) } := by
  induction n with
  | zero => simp [← hphase]
  | succ n ih =>
    push_cast [add_one_mul] at hn ⊢
    have hlo : 0 ≤ n * v := by positivity
    have hpos : 0 < (wrap (268435456 - n * v) - envDown c e).toInt := by
      rw [wrap_sub, hdown, wrap_toInt _ (by omega) (by omega)]
      omega
    rw [Function.iterate_succ_apply', ih (by omega), ← sub_sub, ← hdown, ← wrap_sub, hdown]
    exact envNext_of_fall_above_zero hstate hpos

/-- The call after the last step of a fall reaches 0. -/
theorem iterate_envNext_fall_ends (h2 : v ≤ 268435456) (hn : n * v < 268435456)
    (hend : 268435456 ≤ (n + 1) * v) :
    (envNext c)^[n + 1] e = { e with phase := 0#32, state := .waiting } := by
  have hlo : 0 ≤ n * v := by positivity
  rw [add_one_mul] at hend
  have hle : (wrap (268435456 - n * v) - envDown c e).toInt ≤ 0 := by
    rw [wrap_sub, hdown, wrap_toInt _ (by omega) (by omega)]
    omega
  rw [Function.iterate_succ_apply', iterate_envNext_falling hdown hstate hphase h1 hn]
  exact envNext_of_fall_to_zero hstate hle

/-- The ceiling counts the calls of a fall, the one that reaches 0 included. -/
theorem fall_takes_counted_calls (h2 : v ≤ 268435456) :
    (∀ n : Nat, (n : Int) < (268435456 + v - 1) / v →
      ((envNext c)^[n] e).state = .falling ∧ ((envNext c)^[n] e).phase.toInt = 268435456 - n * v) ∧
    ((envNext c)^[((268435456 + v - 1) / v).toNat] e).state = .waiting ∧
    ((envNext c)^[((268435456 + v - 1) / v).toNat] e).phase = 0#32 := by
  have below : ∀ n : Nat, (n : Int) < (268435456 + v - 1) / v ↔ n * v < 268435456 := fun n => by
    rw [← Int.add_one_le_iff, Int.le_ediv_iff_mul_le h1, add_one_mul]
    omega
  refine ⟨fun n hn => ?_, ?_⟩
  · have hlt := (below n).1 hn
    have hlo : 0 ≤ n * v := by positivity
    rw [iterate_envNext_falling hdown hstate hphase h1 hlt]
    exact ⟨hstate, wrap_toInt _ (by omega) (by omega)⟩
  · have hpos := (below 0).2 (by simp)
    obtain ⟨k, hk⟩ : ∃ k : Nat, (268435456 + v - 1) / v = (k + 1 : Nat) :=
      ⟨((268435456 + v - 1) / v - 1).toNat, by omega⟩
    have hlast := (below k).1 (by omega)
    have hend := mt (below (k + 1)).2 (by omega)
    push_cast at hend
    rw [hk, Int.toNat_natCast, iterate_envNext_fall_ends hdown hstate hphase h1 h2 hlast (not_lt.1 hend)]
    exact ⟨rfl, rfl⟩

end
end

/-- Settles O33: within R124's premise each speed is its exact product, and the run is counted on the unit's
registers alone. -/
theorem envelopeRiseAndFallTakeCountedCalls : Obligations.EnvelopeRiseAndFallTakeCountedCalls := by
  intro s
  simp only [afterN_envProc_env]
  refine ⟨fun hstate hhold hphase h1 h2 => ?rise, fun hstate hphase h1 h2 => ?fall⟩
  case rise =>
    exact rise_takes_counted_calls (envUp_toInt s.cfg s.env (by omega) (by omega)) hstate hphase h1 hhold h2
  case fall =>
    exact fall_takes_counted_calls (envDown_toInt s.cfg s.env (by omega) (by omega)) hstate hphase h1 h2

/-! ### The held envelope (R125) -/

/-- A held rise stays a held rise, whatever the phase does. -/
theorem envNext_of_held_rising (c : Config) {u : Envelope} (h : u.state = .rising ∧ u.hold = true) :
    (envNext c u).state = .rising ∧ (envNext c u).hold = true := by
  refine ⟨?_, (envNext_hold c u).trans h.2⟩
  obtain hsame | ⟨-, hhold, -⟩ | ⟨hfall, -⟩ := envNext_state_cases c u
  · exact hsame.trans h.1
  · simp [h.2] at hhold
  · simp [h.1] at hfall

/-- Settles O34: every call keeps the held rise, and a held rise is what ENV_STOP ends. -/
theorem heldEnvelopeRisesUntilStopped : Obligations.HeldEnvelopeRisesUntilStopped := by
  intro s n hhold
  have hheld : (afterN .envProc n (after .envStart s)).env.state = .rising ∧
      (afterN .envProc n (after .envStart s)).env.hold = true := by
    rw [afterN_envProc_env]
    exact Function.Iterate.rec (a := (after .envStart s).env) (fun u => u.state = .rising ∧ u.hold = true)
      ⟨rfl, hhold⟩ (fun _ => envNext_of_held_rising _) n
  exact ⟨hheld.1, envStopped_of_held_rising hheld⟩

/-! ### The range of the phase (R128) -/

/-- ENV_PHASE is in [0, 1.0], and is 0 in WAITING (R128): `State.EnvInRange` of the unit's registers. -/
def Envelope.InRange (u : Envelope) : Prop :=
  0 ≤ u.phase.toInt ∧ u.phase.toInt ≤ 268435456 ∧ (u.state = .waiting → u.phase = 0#32)

theorem envInRange_iff (s : State) : s.EnvInRange ↔ s.env.InRange := Iff.rfl

/-- The speeds R128 admits: neither a sum nor a difference of ENV_PROC leaves the signed range. -/
def Envelope.ModerateSpeeds (c : Config) (u : Envelope) : Prop :=
  0 ≤ (envUp c u).toInt ∧ (envUp c u).toInt ≤ 7 * 268435456 - 1 ∧
  0 ≤ (envDown c u).toInt ∧ (envDown c u).toInt ≤ 7 * 268435456

theorem toInt_add_of_moderate {p d : Word} (h1 : 0 ≤ p.toInt) (h2 : p.toInt ≤ 268435456) (h3 : 0 ≤ d.toInt)
    (h4 : d.toInt ≤ 7 * 268435456 - 1) : (p + d).toInt = p.toInt + d.toInt := by
  rw [← fxAdd_eq_add, fxAdd, wrap_toInt _ (by simp only [s32]; omega) (by simp only [s32]; omega)]

theorem toInt_sub_of_moderate {p d : Word} (h1 : 0 ≤ p.toInt) (h2 : p.toInt ≤ 268435456) (h3 : 0 ≤ d.toInt)
    (h4 : d.toInt ≤ 7 * 268435456) : (p - d).toInt = p.toInt - d.toInt := by
  rw [← fxSub_eq_sub, fxSub, wrap_toInt _ (by simp only [s32]; omega) (by simp only [s32]; omega)]

theorem envNext_inRange {c : Config} {u : Envelope} (h : u.InRange) (hspeeds : u.ModerateSpeeds c) :
    (envNext c u).InRange := by
  obtain ⟨hlo, hhi, hwaiting⟩ := h
  obtain ⟨hup0, hup1, hdown0, hdown1⟩ := hspeeds
  cases hstate : u.state with
  | rising =>
    by_cases hpast : 268435456 < (u.phase + envUp c u).toInt
    · rw [envNext_of_rise_past_one hstate hpast]
      cases hhold : u.hold <;> simp [Envelope.InRange, one_toInt]
    · rw [envNext_of_rise_up_to_one hstate (not_lt.1 hpast)]
      refine ⟨?_, not_lt.1 hpast, fun hwait => ?_⟩
      · rw [toInt_add_of_moderate hlo hhi hup0 hup1]
        omega
      · simp [hstate] at hwait
  | falling =>
    by_cases hend : (u.phase - envDown c u).toInt ≤ 0
    · rw [envNext_of_fall_to_zero hstate hend]
      simp [Envelope.InRange]
    · rw [envNext_of_fall_above_zero hstate (not_le.1 hend)]
      refine ⟨(not_le.1 hend).le, ?_, fun hwait => ?_⟩
      · rw [toInt_sub_of_moderate hlo hhi hdown0 hdown1]
        omega
      · simp [hstate] at hwait
  | waiting =>
    rw [envNext_of_waiting hstate]
    exact ⟨hlo, hhi, hwaiting⟩

/-- Only ENV_PROC moves the phase, and only it can lead to WAITING. -/
theorem Writes.envInRange {i : Instr} {s u : State} (hu : Writes s i u) (h : s.EnvInRange)
    (hspeeds : i = .envProc → s.env.ModerateSpeeds s.cfg) : u.EnvInRange := by
  cases hu with
  | envProc => exact (envInRange_iff _).2 (envNext_inRange ((envInRange_iff s).1 h) (hspeeds rfl))
  | envStart =>
    obtain ⟨hlo, hhi, -⟩ := h
    exact ⟨hlo, hhi, nofun⟩
  | envStop =>
    obtain ⟨hlo, hhi, hwait⟩ := h
    by_cases hheld : s.env.state = .rising ∧ s.env.hold = true
    · exact ⟨hlo, hhi, by simp [envStopped_of_held_rising hheld]⟩
    · exact ⟨hlo, hhi, by simpa [envStopped_of_not_held_rising hheld] using hwait⟩
  | wrreg r v => simpa only [State.EnvInRange, writeReg_env_phase, writeReg_env_state] using h
  | _ => exact h

theorem exec_envInRange {i : Instr} {s t : State} (ht : exec i s = .next t) (h : s.EnvInRange)
    (hspeeds : i = .envProc → s.env.ModerateSpeeds s.cfg) : t.EnvInRange := by
  obtain ⟨-, rfl⟩ | ⟨u, d, hu, rfl⟩ := refuse_or_writes ht
  · exact h
  · exact hu.envInRange h hspeeds

theorem resetFor_envInRange (c : Config) : (State.resetFor c).EnvInRange :=
  ⟨show 0 ≤ s32 0#32 by decide, show s32 0#32 ≤ s32 one by decide, fun _ => rfl⟩

theorem step_envInRange {s t : State} (ht : step s = .next t) (h : s.EnvInRange)
    (hspeeds : ∀ w, s.portAction = .command w → decode w = .ok .envProc → s.env.ModerateSpeeds s.cfg) :
    t.EnvInRange := by
  obtain rfl | rfl | ⟨w, e, -, -, rfl⟩ | ⟨w, i, hport, hdecode, hexec⟩ := step_cases ht
  · exact h
  · exact resetFor_envInRange s.cfg
  · exact h
  · exact exec_envInRange hexec h (fun hi => hspeeds w hport (hi ▸ hdecode))

/-- A speed up to the quotient of R128 keeps its product below 7.0. -/
theorem speed_mul_bounds {d k : Word} (hd : 0 < d.toInt) (hk : 0 ≤ k.toInt)
    (hkd : k.toInt ≤ (7 * 268435456 - 1) / d.toInt) :
    0 ≤ (d * k).toInt ∧ (d * k).toInt ≤ 7 * 268435456 - 1 := by
  have hlo : 0 ≤ k.toInt * d.toInt := mul_nonneg hk hd.le
  have hhi : k.toInt * d.toInt ≤ 7 * 268435456 - 1 := (Int.le_ediv_iff_mul_le hd).1 hkd
  have hexact : (k * d).toInt = k.toInt * d.toInt := by
    rw [BitVec.toInt_mul]
    exact Int.bmod_eq_of_le (by norm_num; omega) (by norm_num; omega)
  rw [BitVec.mul_comm, hexact]
  exact ⟨hlo, hhi⟩

/-- Settles O35: each command's one write keeps the unit's registers in range, and the reset state is in it. -/
theorem envelopePhaseStaysInRange : Obligations.EnvelopePhaseStaysInRange := by
  simp only [Obligations.EnvelopePhaseStaysInRange, ← envUp_eq_mul, ← envDown_eq_mul]
  refine ⟨fun i s t ht h hspeeds => ⟨exec_envInRange ht h hspeeds, fun hi => ?noWrap⟩,
    fun s t ht h hspeeds => step_envInRange ht h hspeeds, resetFor_envInRange,
    fun c k hd hk hkd => speed_mul_bounds hd hk hkd, ?reference⟩
  case noWrap =>
    obtain ⟨hlo, hhi, -⟩ := h
    obtain ⟨hup0, hup1, hdown0, hdown1⟩ := hspeeds hi
    exact ⟨toInt_add_of_moderate hlo hhi hup0 hup1, toInt_sub_of_moderate hlo hhi hdown0 hdown1⟩
  case reference =>
    rw [deltaConstRaw_reference]
    decide

end Sys2Proof.Machine
end

section
/-! PROOFS of the LFSR family (43_lfsr.md): what LFSR_PROC does to each bit (R136), the square wave of the
default mask (R137), and the drain of the bits above the width (R136, R139). -/

namespace Sys2Proof.Machine

/-! ### One LFSR_PROC (R136) -/

theorem bitWord_eq_ite (b : Bool) : bitWord b = if b then 1#32 else 0#32 := by cases b <;> rfl

/-- A bit shifted to `top` stands there alone. -/
theorem bitWord_shiftLeft_getLsbD (b : Bool) {top : Nat} (htop : top < 32) (j : Nat) :
    (bitWord b <<< top).getLsbD j = (decide (j = top) && b) := by
  cases b with
  | false => simp [bitWord]
  | true =>
    rw [show bitWord true <<< top = BitVec.twoPow 32 top from rfl, BitVec.getLsbD_twoPow]
    simp [htop, eq_comm]

/-- The XOR of the low `n` bits tells whether the count of set bits among them is odd. -/
theorem parityUpTo_eq_countP (p : Word) (n : Nat) :
    parityUpTo p n = decide ((List.range n).countP p.getLsbD % 2 = 1) := by
  induction n with
  | zero => rfl
  | succ n ih =>
    rw [parityUpTo, ih, List.range_succ, List.countP_append, List.countP_singleton]
    cases p.getLsbD n with
    | false => simp
    | true =>
      rw [Bool.xor_true, ← decide_not, if_pos rfl]
      exact decide_eq_decide.2 (by omega)

theorem lfsrFeedback_eq_countP (u : Lfsr) :
    lfsrFeedback u =
      decide ((List.range 32).countP (fun j => u.value.getLsbD j && u.mask.getLsbD j) % 2 = 0) := by
  have hbits : (u.value &&& u.mask).getLsbD = fun j => u.value.getLsbD j && u.mask.getLsbD j :=
    funext fun _ => BitVec.getLsbD_and
  rw [lfsrFeedback, parity, parityUpTo_eq_countP, hbits, ← decide_not]
  simp only [Nat.mod_two_not_eq_one]

section
variable {u : Lfsr} (hlo : 1 ≤ u.bits.toNat) (hhi : u.bits.toNat ≤ 32)
include hlo hhi

/-- Bit `LFSR_BITS - 1` of the next value is the feedback bit, and every other bit comes from the position
above it, which is 0 past bit 31. -/
theorem lfsrNext_getLsbD (j : Nat) :
    (lfsrNext u).getLsbD j =
      if j = u.bits.toNat - 1 then lfsrFeedback u else u.value.getLsbD (j + 1) := by
  have htop : (u.bits - 1#6).toNat = u.bits.toNat - 1 := BitVec.toNat_sub_of_le hlo
  have hlt : u.bits.toNat - 1 < 32 := by omega
  simp only [lfsrNext, htop, BitVec.getLsbD_or, BitVec.getLsbD_and, BitVec.getLsbD_not,
    BitVec.getLsbD_ushiftRight, show 1#32 = bitWord true from rfl, bitWord_shiftLeft_getLsbD _ hlt]
  split_ifs with hj
  case pos => simp [hj]
  case neg =>
    have hbit : u.value.getLsbD (j + 1) = true → j < 32 := fun h => by
      have := BitVec.lt_of_getLsbD h
      omega
    simpa [hj, Nat.add_comm 1 j] using hbit

end

/-- Settles O36: the feedback as a count of the tapped bits, and the next value bit by bit. -/
theorem lfsrShiftsAndInjectsTheInvertedParity : Obligations.LfsrShiftsAndInjectsTheInvertedParity := by
  refine ⟨decode_packCmd 0x20#8, fun s => ⟨lfsrNext s.lfsr, ?command, fun hlo hhi j _ => ?bit⟩⟩
  case command =>
    rw [exec_eq_after, after_lfsrProc, bitWord_eq_ite, lfsrFeedback_eq_countP]
    rfl
  case bit => rw [lfsrNext_getLsbD hlo hhi, lfsrFeedback_eq_countP]

/-! ### Repeated LFSR_PROC -/

section
variable (n : Nat) (s : State)

theorem afterN_lfsrProc_bits : (afterN .lfsrProc n s).lfsr.bits = s.lfsr.bits := by
  induction n with
  | zero => rfl
  | succ n ih => exact ih

theorem afterN_lfsrProc_mask : (afterN .lfsrProc n s).lfsr.mask = s.lfsr.mask := by
  induction n with
  | zero => rfl
  | succ n ih => exact ih

theorem afterN_succ_lfsrProc_value :
    (afterN .lfsrProc (n + 1) s).lfsr.value = lfsrNext (afterN .lfsrProc n s).lfsr := rfl

theorem afterN_succ_lfsrProc_rsp :
    (afterN .lfsrProc (n + 1) s).rsp =
      ⟨true, .ok, bitWord (lfsrFeedback (afterN .lfsrProc n s).lfsr)⟩ := rfl

end

section
variable {s : State} (hlo : 1 ≤ s.lfsr.bits.toNat) (hhi : s.lfsr.bits.toNat ≤ 32)
include hlo hhi

theorem afterN_succ_lfsrProc_getLsbD (n j : Nat) :
    (afterN .lfsrProc (n + 1) s).lfsr.value.getLsbD j =
      if j = s.lfsr.bits.toNat - 1 then lfsrFeedback (afterN .lfsrProc n s).lfsr
      else (afterN .lfsrProc n s).lfsr.value.getLsbD (j + 1) := by
  rw [← afterN_lfsrProc_bits n s] at hlo hhi ⊢
  rw [afterN_succ_lfsrProc_value]
  exact lfsrNext_getLsbD hlo hhi j

/-! ### The drain of the bits above the width (R136, R139) -/

/-- A bit at or above the width is the seed's bit `n` positions higher: no feedback reaches it. -/
theorem afterN_lfsrProc_getLsbD_of_bits_le (n : Nat) {j : Nat} (hj : s.lfsr.bits.toNat ≤ j) :
    (afterN .lfsrProc n s).lfsr.value.getLsbD j = s.lfsr.value.getLsbD (j + n) := by
  induction n generalizing j with
  | zero => rfl
  | succ n ih =>
    rw [afterN_succ_lfsrProc_getLsbD hlo hhi, if_neg (by omega), ih (by omega), Nat.add_right_comm]
    rfl

end

/-- Settles O38: after 32 calls a bit above the width is a bit of the seed past bit 31. -/
theorem seedBitsAboveTheWidthDrain : Obligations.SeedBitsAboveTheWidthDrain := by
  intro s n j hlo hhi hn hj
  rw [afterN_lfsrProc_getLsbD_of_bits_le hlo hhi n hj]
  exact BitVec.getLsbD_of_ge _ _ (by omega)

/-! ### The square wave of the default mask (R137) -/

theorem parity_bitWord (b : Bool) : parity (bitWord b) = b := by cases b <;> decide

/-- With mask 1 the feedback is the inverse of bit 0. -/
theorem lfsrFeedback_of_mask_one {u : Lfsr} (hmask : u.mask = 1#32) :
    lfsrFeedback u = !u.value.getLsbD 0 := by
  have htap : u.value &&& u.mask = bitWord (u.value.getLsbD 0) := by
    rw [hmask, BitVec.and_one_eq_setWidth_ofBool_getLsbD]
    rfl
  rw [lfsrFeedback, htap, parity_bitWord]

/-- The square wave of half-period `n`, which starts with `n` zeros. -/
def squareWave (n k : Nat) : Bool := decide (k / n % 2 = 1)

/-- Nothing of the first half-period is seen in a window of width `n`. -/
theorem lt_and_squareWave (n j : Nat) : (decide (j < n) && squareWave n j) = false := by
  by_cases hj : j < n
  · rw [squareWave, Nat.div_eq_of_lt hj]
    exact Bool.and_false _
  · rw [decide_eq_false hj, Bool.false_and]

theorem squareWave_add_halfPeriod {n : Nat} (hn : 0 < n) (k : Nat) :
    squareWave n (k + n) = !squareWave n k := by
  rw [squareWave, squareWave, Nat.add_div_right k hn, ← decide_not]
  exact decide_eq_decide.2 (Nat.succ_mod_two_eq_one_iff.trans Nat.mod_two_not_eq_one.symm)

section
variable {s : State} (hlo : 1 ≤ s.lfsr.bits.toNat) (hhi : s.lfsr.bits.toNat ≤ 32)
  (hmask : s.lfsr.mask = 1#32) (hvalue : s.lfsr.value = 0#32)
include hlo hhi hmask hvalue

/-- The register is a window of width `LFSR_BITS` on the square wave, which each call moves by one: the bit
fed at the top is the inverse of the one half a period before, at the bottom. -/
theorem afterN_lfsrProc_getLsbD_of_mask_one (k j : Nat) :
    (afterN .lfsrProc k s).lfsr.value.getLsbD j =
      (decide (j < s.lfsr.bits.toNat) && squareWave s.lfsr.bits.toNat (k + j)) := by
  induction k generalizing j with
  | zero =>
    rw [afterN, hvalue, BitVec.getLsbD_zero, Nat.zero_add, lt_and_squareWave]
  | succ k ih =>
    rw [afterN_succ_lfsrProc_getLsbD hlo hhi,
      lfsrFeedback_of_mask_one ((afterN_lfsrProc_mask k s).trans hmask), ih, ih]
    split_ifs with htop
    case pos =>
      have hnext : k + 1 + j = k + s.lfsr.bits.toNat := by omega
      have hj : j < s.lfsr.bits.toNat := by omega
      rw [hnext, squareWave_add_halfPeriod hlo, decide_eq_true (Nat.zero_lt_of_lt hlo), decide_eq_true hj]
      rfl
    case neg =>
      have hinside : j + 1 < s.lfsr.bits.toNat ↔ j < s.lfsr.bits.toNat := by omega
      rw [decide_eq_decide.2 hinside, Nat.add_right_comm k 1 j]
      rfl

theorem afterN_succ_lfsrProc_rsp_of_mask_one (k : Nat) :
    (afterN .lfsrProc (k + 1) s).rsp = ⟨true, .ok, bitWord !squareWave s.lfsr.bits.toNat k⟩ := by
  rw [afterN_succ_lfsrProc_rsp, lfsrFeedback_of_mask_one ((afterN_lfsrProc_mask k s).trans hmask),
    afterN_lfsrProc_getLsbD_of_mask_one hlo hhi hmask hvalue, decide_eq_true (Nat.zero_lt_of_lt hlo)]
  rfl

theorem afterN_lfsrProc_value_of_mask_one_of_period :
    (afterN .lfsrProc (2 * s.lfsr.bits.toNat) s).lfsr.value = 0#32 := by
  apply BitVec.eq_of_getLsbD_eq
  intro j _
  have hperiod : 2 * s.lfsr.bits.toNat + j = j + s.lfsr.bits.toNat + s.lfsr.bits.toNat := by omega
  rw [afterN_lfsrProc_getLsbD_of_mask_one hlo hhi hmask hvalue, BitVec.getLsbD_zero, hperiod,
    squareWave_add_halfPeriod hlo, squareWave_add_halfPeriod hlo, Bool.not_not, lt_and_squareWave]

end

/-- Settles O37: the datum is the inverse of the wave at the bottom of the window, and after two half-periods
the window is 0 again. -/
theorem defaultMaskLfsrIsASquareWave : Obligations.DefaultMaskLfsrIsASquareWave := by
  intro s hlo hhi hmask hvalue
  refine ⟨fun k => ?datum, afterN_lfsrProc_value_of_mask_one_of_period hlo hhi hmask hvalue⟩
  case datum =>
    rw [afterN_succ_lfsrProc_rsp_of_mask_one hlo hhi hmask hvalue, bitWord_eq_ite, squareWave]
    simp only [← decide_not, decide_eq_true_eq, Nat.mod_two_not_eq_one]

end Sys2Proof.Machine
end

section
/-! PROOFS of the Schmidt family (44_schmidt.md): SCH_PROC steps the stand-alone comparator (R146, R147), and
what holds of both comparators whatever their thresholds (R148, R149). -/

namespace Sys2Proof.Machine

/-! ### The comparator step (R146) -/

/-- The comparator step with the machine's signed comparisons. -/
theorem schmidtStep_eq_slt (c : Schmidt) (x : Word) :
    schmidtStep c x =
      { c with
        last := x
        state :=
          if c.last.slt c.hi && c.hi.slt x then (if (0#32).slt x then one else minusOne)
          else if c.lo.slt c.last && x.slt c.lo then 0#32 else c.state } := by
  simp only [schmidtStep_eq, Bool.and_eq_true, BitVec.slt_iff_toInt_lt, BitVec.toInt_zero]

/-- Settles O39: SCH_PROC is one step of the stand-alone comparator, whose new level is the datum. -/
theorem schProcStepsTheComparator : Obligations.SchProcStepsTheComparator := by
  refine ⟨decode_packCmd 0x60#8, fun a s => ?_⟩
  rw [exec_eq_after, after_schProc, schmidtStep_eq_slt]
  rfl

/-! ### What holds whatever the thresholds (R148, R149) -/

section
variable {c : Schmidt} {x : Word}

/-- An input inside the band crosses neither threshold (R149). -/
theorem schmidtStep_state_of_mem_band (hlo : c.lo.toInt ≤ x.toInt) (hhi : x.toInt ≤ c.hi.toInt) :
    (schmidtStep c x).state = c.state := by
  have hfire : ¬ (c.last.toInt < c.hi.toInt ∧ c.hi.toInt < x.toInt) := fun h => h.2.not_ge hhi
  have hclear : ¬ (c.lo.toInt < c.last.toInt ∧ x.toInt < c.lo.toInt) := fun h => h.2.not_ge hlo
  rw [schmidtStep_eq]
  exact (if_neg hfire).trans (if_neg hclear)

/-- A sample that crosses a non-negative `hi` is positive, so the level it fires is +1.0. -/
theorem schmidtStep_state_ne_minusOne (hhi : 0 ≤ c.hi.toInt) (hstate : c.state ≠ minusOne) :
    (schmidtStep c x).state ≠ minusOne := by
  rw [schmidtStep_eq]
  dsimp only
  split_ifs with hfire hpos
  · decide
  · exact absurd (hhi.trans_lt hfire.2) hpos
  · decide
  · exact hstate

end

/-- A command's one write keeps the stand-alone comparator's level or steps that comparator. -/
theorem Writes.sch_state_eq_or_step {i : Instr} {s u : State} (hu : Writes s i u) :
    u.sch.state = s.sch.state ∨ ∃ a, u.sch = schmidtStep s.sch a := by
  cases hu with
  | schProc a => exact .inr ⟨a, rfl⟩
  | wrreg r v => exact .inl (writeReg_sch_state r v s)
  | _ => exact .inl rfl

/-- The same of the TrigDetector's comparator. -/
theorem Writes.td_cmp_state_eq_or_step {i : Instr} {s u : State} (hu : Writes s i u) :
    u.td.cmp.state = s.td.cmp.state ∨ ∃ a, u.td.cmp = schmidtStep s.td.cmp a := by
  cases hu with
  | tdProc a => exact .inr ⟨a, rfl⟩
  | wrreg r v => exact .inl (writeReg_td_state r v s)
  | _ => exact .inl rfl

/-- A level kept or stepped does not become -1.0 when `hi` is not negative (R148). -/
theorem state_ne_minusOne_of_eq_or_step {c c' : Schmidt}
    (h : c'.state = c.state ∨ ∃ a, c' = schmidtStep c a) (hhi : 0 ≤ c.hi.toInt)
    (hstate : c.state ≠ minusOne) : c'.state ≠ minusOne := by
  obtain hkept | ⟨a, rfl⟩ := h
  · rwa [hkept]
  · exact schmidtStep_state_ne_minusOne hhi hstate

/-- Settles O40: to fire needs an input above `last` and to clear one below it, the band excludes both, and a
command keeps each level or steps its comparator. -/
theorem comparatorGuarantees : Obligations.ComparatorGuarantees := by
  refine ⟨fun a s => ⟨?exclusive, ?sch, schmidtStep_state_of_mem_band⟩, fun i s t h => ?level⟩
  case exclusive =>
    rintro ⟨⟨hlast, hfire⟩, hlast', hclear⟩
    omega
  case sch =>
    intro hlo hhi
    have hkept := schmidtStep_state_of_mem_band hlo hhi
    exact ⟨hkept, congrArg (Response.mk true .ok) hkept⟩
  case level =>
    obtain ⟨-, rfl⟩ | ⟨u, d, hu, rfl⟩ := refuse_or_writes h
    · exact ⟨fun _ => id, fun _ => id⟩
    · exact ⟨state_ne_minusOne_of_eq_or_step hu.sch_state_eq_or_step,
        state_ne_minusOne_of_eq_or_step hu.td_cmp_state_eq_or_step⟩

end Sys2Proof.Machine
end

section
/-! PROOFS of the TrigDetector family (45_trigdetector.md): what TD_PROC does (R156), and that each rise of its
comparator's level is reported once (R157). -/

namespace Sys2Proof.Machine

/-! ### The command (R156) -/

/-- TD_PROC's datum with the machine's signed comparison. -/
theorem bitWord_tdRose_eq_slt (lastVal level : Word) :
    bitWord (tdRose lastVal level) = if lastVal.slt level then 1#32 else 0#32 := by
  rw [bitWord_eq_ite]
  rfl

/-- Settles O41: TD_PROC steps its own comparator, whose new level becomes TD_LASTVAL and is compared with the
old one. -/
theorem tdProcReportsARisingLevel : Obligations.TdProcReportsARisingLevel := by
  refine ⟨decode_packCmd 0x70#8, fun a s => ?_⟩
  rw [exec_eq_after, after_tdProc, bitWord_tdRose_eq_slt, schmidtStep_eq_slt]
  rfl

/-! ### Each rise is reported once (R157) -/

/-- Every TD_PROC leaves TD_LASTVAL equal to TD_STATE, whatever they were (R156). -/
theorem after_tdProc_lastVal (a : Word) (s : State) :
    (after (.tdProc a) s).td.lastVal = (after (.tdProc a) s).td.cmp.state := rfl

section
variable {s : State} (a : Word) (hlast : s.td.lastVal = s.td.cmp.state)
include hlast

/-- With TD_LASTVAL at the level, the datum is the bit "the level this call leaves is above the one before". -/
theorem after_tdProc_rsp_eq_bitWord_iff (rose : Bool) :
    (after (.tdProc a) s).rsp = ⟨true, .ok, bitWord rose⟩ ↔
      decide (s.td.cmp.state.toInt < (after (.tdProc a) s).td.cmp.state.toInt) = rose := by
  rw [after_tdProc, respond_rsp, Response.okData, Response.mk.injEq, bitWord_injective.eq_iff, hlast]
  simp only [true_and]
  rfl

theorem after_tdProc_rsp_eq_one_iff :
    (after (.tdProc a) s).rsp = ⟨true, .ok, 1#32⟩ ↔
      s.td.cmp.state.toInt < (after (.tdProc a) s).td.cmp.state.toInt :=
  (after_tdProc_rsp_eq_bitWord_iff a hlast true).trans decide_eq_true_iff

theorem after_tdProc_rsp_eq_zero_iff :
    (after (.tdProc a) s).rsp = ⟨true, .ok, 0#32⟩ ↔
      ¬ s.td.cmp.state.toInt < (after (.tdProc a) s).td.cmp.state.toInt :=
  (after_tdProc_rsp_eq_bitWord_iff a hlast false).trans decide_eq_false_iff_not

end

/-- Settles O42: the first call compares the new level with the level before it, and it leaves TD_LASTVAL at
the new level, so a following call that keeps that level compares it with itself. -/
theorem tdReportsEachRiseOnce : Obligations.TdReportsEachRiseOnce := by
  intro a b s hlast
  refine ⟨after_tdProc_rsp_eq_one_iff a hlast, after_tdProc_rsp_eq_zero_iff a hlast, fun hkept => ?following⟩
  case following =>
    rw [after_tdProc_rsp_eq_zero_iff b (after_tdProc_lastVal a s), hkept]
    exact lt_irrefl _

end Sys2Proof.Machine
end

section
/-! PROOFS of the TrigGen family (46_triggen.md): what TG_RESET and TG_PROC do (R161 to R163), the shape of the
pulse after a re-arm (R165), and the level at the saturated counter (R164). -/

namespace Sys2Proof.Machine

/-! ### The commands (R161 to R163) -/

/-- Settles O43: `wrap(-1)` is the pattern of all ones. -/
theorem tgResetRearmsTheCounter : Obligations.TgResetRearmsTheCounter := by
  refine ⟨decode_packCmd 0x51#8, fun s => ?_⟩
  rw [exec_eq_after, after_tgReset, show wrap (-1) = 0xFFFFFFFF#32 from rfl]
  rfl

/-- Settles O44: the window test is made on the saturating increment of the counter. -/
theorem tgProcEmitsInsideTheWindow : Obligations.TgProcEmitsInsideTheWindow := by
  refine ⟨decode_packCmd 0x50#8, fun s => ?_⟩
  rw [exec_eq_after, after_tgProc, satInc_eq]
  rfl

/-! ### The level on either side of the window's bounds (R163) -/

section
variable {u : TrigGen} {c : Word}

theorem tgLevel_of_inside (hlo : u.delay.toInt < c.toInt) (hhi : c.toInt < u.delay.toInt + u.width.toInt) :
    tgLevel u c = u.amp := if_pos ⟨hlo, hhi⟩

theorem tgLevel_of_le_delay (h : c.toInt ≤ u.delay.toInt) : tgLevel u c = 0#32 :=
  if_neg fun inside => inside.1.not_ge h

theorem tgLevel_of_window_end_le (h : u.delay.toInt + u.width.toInt ≤ c.toInt) : tgLevel u c = 0#32 :=
  if_neg fun inside => inside.2.not_ge h

end

/-! ### Repeated TG_PROC -/

/-- The counter after `n` increments is the exact sum, cut off at CTR_MAX (R161). -/
theorem satInc_iterate_toInt (x : Word) (n : Nat) : (satInc^[n] x).toInt = min (x.toInt + n) 2147483647 := by
  induction n with
  | zero =>
    have := toInt_range x
    rw [Function.iterate_zero_apply]
    omega
  | succ n ih =>
    rw [Function.iterate_succ_apply', satInc_toInt, ih]
    omega

theorem satInc_iterate_ctrMax (n : Nat) : satInc^[n] 0x7FFFFFFF#32 = 0x7FFFFFFF#32 :=
  Function.iterate_fixed (by decide) n

section
variable (n : Nat) (s : State)

/-- TG_PROC moves the counter only: delay, width and amplitude are those of the start. -/
theorem afterN_tgProc_tg : (afterN .tgProc n s).tg = { s.tg with count := satInc^[n] s.tg.count } := by
  induction n with
  | zero => rfl
  | succ n ih => rw [afterN_succ, after_tgProc, respond_tg, setTg_tg, ih, Function.iterate_succ_apply']

theorem afterN_succ_tgProc_rsp :
    (afterN .tgProc (n + 1) s).rsp = ⟨true, .ok, tgLevel s.tg (satInc^[n + 1] s.tg.count)⟩ := by
  rw [afterN_succ, after_tgProc, respond_rsp, afterN_tgProc_tg, Function.iterate_succ_apply']
  rfl

end

/-! ### The pulse after a re-arm (R165) -/

/-- Call `n + 1` after TG_RESET compares with counter `n`, or with CTR_MAX once that is reached. -/
theorem rearmed_counter_toInt (n : Nat) : (satInc^[n + 1] (wrap (-1))).toInt = min n 2147483647 := by
  rw [satInc_iterate_toInt, show (wrap (-1)).toInt = -1 from rfl]
  omega

theorem afterN_succ_tgProc_rsp_of_rearmed (n : Nat) (s : State) :
    (afterN .tgProc (n + 1) (after .tgReset s)).rsp =
      ⟨true, .ok, tgLevel s.tg (satInc^[n + 1] (wrap (-1)))⟩ :=
  afterN_succ_tgProc_rsp n (after .tgReset s)

/-- Settles O45: each clause places the counter `min n CTR_MAX` against the bounds of the window. -/
theorem trigGenPulseShape : Obligations.TrigGenPulseShape := by
  intro s n _
  have hcounter := rearmed_counter_toInt n
  simp only [afterN_succ_tgProc_rsp_of_rearmed]
  refine ⟨fun hn => ?delay, fun hd hlo hhi => ?pulse, fun hn hend => ?ended, fun hd hn hend => ?heldOpen,
    fun hd => ?neverOpen⟩
  case delay => rw [tgLevel_of_le_delay (by omega)]
  case pulse => rw [tgLevel_of_inside (by omega) (by omega)]
  case ended => rw [tgLevel_of_window_end_le (by omega)]
  case heldOpen => rw [tgLevel_of_inside (by omega) (by omega)]
  case neverOpen => rw [tgLevel_of_le_delay (by omega)]

/-! ### The saturated counter (R164) -/

/-- Settles O46: CTR_MAX is a fixed point of the increment, so every call tests CTR_MAX against the window. -/
theorem trigGenIsSilentFromReset : Obligations.TrigGenIsSilentFromReset := by
  refine ⟨fun s n hcount => ?calls, fun _ => rfl⟩
  have hmax : (0x7FFFFFFF#32).toInt = 2147483647 := rfl
  rw [afterN_tgProc_tg, afterN_succ_tgProc_rsp, hcount, satInc_iterate_ctrMax, satInc_iterate_ctrMax]
  refine ⟨rfl, fun hsilent => ?silent, fun hopen => ?held⟩
  case silent =>
    obtain hend | hdelay := hsilent
    · rw [tgLevel_of_window_end_le (hend.trans_eq hmax.symm)]
    · rw [tgLevel_of_le_delay (hmax.trans_le hdelay)]
  case held =>
    rw [not_or, not_le, not_le] at hopen
    rw [tgLevel_of_inside (hopen.2.trans_eq hmax.symm) (hmax.trans_lt hopen.1)]

end Sys2Proof.Machine
end

section
/-! PROOFS of the ClockRateDetector, system, exceptions and reset families (47_clock_rate_detector.md,
48_system.md, 60_exceptions.md, 70_reset_and_hazards.md): CRD_PROC and the interval it measures (R172, R173),
NOP, RDREG and WRREG (R176 to R178), refusals and the sticky STATUS (R185 to R188), commands of different units
(R212), and reset (R205, R206). -/

namespace Sys2Proof.Machine

/-! ### CRD_PROC (R172, R173) -/

section
variable {a : Word} (s : State)

theorem after_crdProc_of_trigger (ha : a.getLsbD 0 = true) :
    after (.crdProc a) s = (s.setCrd { count := 0#32, interval := s.crd.count }).respond 0#32 := by
  rw [after_crdProc, triggered, ha]
  rfl

theorem after_crdProc_of_no_trigger (ha : a.getLsbD 0 = false) :
    after (.crdProc a) s = (s.setCrd { s.crd with count := satInc s.crd.count }).respond 0#32 := by
  rw [after_crdProc, triggered, ha]
  rfl

/-- Calls without a trigger move the counter only. -/
theorem afterN_crdProc_crd_of_no_trigger (ha : a.getLsbD 0 = false) (n : Nat) :
    (afterN (.crdProc a) n s).crd = { s.crd with count := satInc^[n] s.crd.count } := by
  induction n with
  | zero => rfl
  | succ n ih =>
    rw [afterN_succ, after_crdProc_of_no_trigger _ ha, respond_crd, setCrd_crd, ih,
      Function.iterate_succ_apply']

end

/-- Settles O47: bit 0 of the operand chooses the branch, and the increment stops at CTR_MAX. -/
theorem crdProcCountsOrRecords : Obligations.CrdProcCountsOrRecords := by
  refine ⟨decode_packCmd 0x80#8, fun a s => ⟨fun ha => ?trigger, fun ha => ?noTrigger⟩⟩
  case trigger =>
    rw [exec_eq_after, after_crdProc_of_trigger s ha]
    rfl
  case noTrigger =>
    rw [exec_eq_after, after_crdProc_of_no_trigger s ha, satInc_eq]
    rfl

/-- The first trigger clears the counter, and the second records what the calls between made of it (R172). -/
theorem crd_after_triggers_around_no_triggers {trig idle : Word} (htrig : trig.getLsbD 0 = true)
    (hidle : idle.getLsbD 0 = false) (s : State) (k : Nat) :
    (after (.crdProc trig) (afterN (.crdProc idle) k (after (.crdProc trig) s))).crd =
      { count := 0#32, interval := satInc^[k] 0#32 } := by
  rw [after_crdProc_of_trigger _ htrig, respond_crd, setCrd_crd, afterN_crdProc_crd_of_no_trigger _ hidle,
    after_crdProc_of_trigger s htrig]
  rfl

/-- Settles O48: the interval recorded is `k` saturating increments of 0. -/
theorem clockRateMeasuresThePeriodLessOne : Obligations.ClockRateMeasuresThePeriodLessOne := by
  intro s trig idle k htrig hidle t
  have hcrd : t.crd = _ := crd_after_triggers_around_no_triggers htrig hidle s k
  have hcount := satInc_iterate_toInt 0#32 k
  rw [BitVec.toInt_zero, zero_add] at hcount
  rw [hcrd]
  exact ⟨hcount, rfl⟩

/-! ### Refusals (R185 to R187) -/

section
variable (s : State)

theorem refuse_illegalOperand :
    s.refuse .illegalOperand =
      { s with
        status := if s.status.getLsbD 0 then s.status else 5#3
        rsp := ⟨true, .illegalOperand, 0#32⟩ } := rfl

theorem refuse_illegalOpcode :
    s.refuse .illegalOpcode =
      { s with
        status := if s.status.getLsbD 0 then s.status else 3#3
        rsp := ⟨true, .illegalOpcode, 0#32⟩ } := rfl

end

/-- Settles O14: both refusals are `State.refuse`, which writes STATUS and the response. -/
theorem refusedCommandsChangeOnlyStatus : Obligations.RefusedCommandsChangeOnlyStatus := by
  refine ⟨fun i s hw => ?operand, fun w e s hd => ?opcode⟩
  case operand => rw [exec_of_not_wellFormed i s hw, refuse_illegalOperand]
  case opcode => rw [runCommand_of_decode_error hd, refuse_illegalOpcode]

/-! ### The sticky STATUS (R188) -/

/-- A command word is refused, or answered OK with STATUS as it was. -/
theorem runCommand_refuses_or_keeps_status {w : CmdWord} {s t : State} (h : runCommand w s = .next t) :
    (∃ e, t = s.refuse e) ∨ (t.rsp.status = .ok ∧ t.status = s.status) := by
  cases hd : decode w with
  | error e =>
    rw [runCommand_of_decode_error hd] at h
    exact .inl ⟨_, (Host.Outcome.next.inj h).symm⟩
  | ok i =>
    rw [runCommand_of_decode_ok hd, ← exec_eq_after] at h
    obtain ⟨-, rfl⟩ | ⟨u, d, hu, rfl⟩ := refuse_or_writes h
    · exact .inl ⟨_, rfl⟩
    · exact .inr ⟨rfl, hu.status_eq⟩

theorem step_of_portAction_reset {s : State} (h : s.portAction = .reset) :
    step s = .next s.takeCycle.resetCycle := by
  rw [step, h]

/-- A clock cycle keeps STATUS, clears it by a reset, or records an error. -/
theorem step_status_cases {s t : State} (h : step s = .next t) :
    t.status = s.status ∨ (s.portAction = .reset ∧ t.status = 0#3) ∨
      ∃ e, t.status = recordError e s.status := by
  cases hact : s.portAction with
  | idle =>
    rw [step_of_portAction_idle hact] at h
    obtain rfl := Host.Outcome.next.inj h
    exact .inl rfl
  | reset =>
    rw [step_of_portAction_reset hact] at h
    obtain rfl := Host.Outcome.next.inj h
    exact .inr (.inl ⟨rfl, rfl⟩)
  | command w =>
    rw [step_of_portAction_command hact] at h
    obtain ⟨e, rfl⟩ | ⟨-, hkept⟩ := runCommand_refuses_or_keeps_status h
    · exact .inr (.inr ⟨e, rfl⟩)
    · exact .inl hkept

theorem recordError_of_err {st : BitVec 3} (h : st.getLsbD 0 = true) (e : CmdError) :
    recordError e st = st := if_pos h

/-- Settles O16: a command's only effect on STATUS is `recordError`, which keeps a recorded error. -/
theorem statusKeepsTheFirstError : Obligations.StatusKeepsTheFirstError := by
  refine ⟨fun s t herr hreset h => ?sticky, fun w s t herr h => ?firstError, fun s t hok h => ?values⟩
  case sticky =>
    obtain hkept | ⟨hact, -⟩ | ⟨e, he⟩ := step_status_cases h
    · exact hkept
    · exact absurd hact hreset
    · rw [he, recordError_of_err herr]
  case firstError =>
    obtain ⟨e, rfl⟩ | ⟨hok, hkept⟩ := runCommand_refuses_or_keeps_status h
    · cases e with
      | illegalOpcode =>
        rw [refuse_illegalOpcode, herr]
        exact ⟨fun _ => rfl, nofun, nofun⟩
      | illegalOperand =>
        rw [refuse_illegalOperand, herr]
        exact ⟨nofun, fun _ => rfl, nofun⟩
    · rw [hok]
      exact ⟨nofun, nofun, fun _ => hkept⟩
  case values =>
    obtain hkept | ⟨-, hzero⟩ | ⟨e, he⟩ := step_status_cases h
    · rwa [hkept]
    · exact .inl hzero
    · rw [he]
      exact recordError_statusOk e hok

/-! ### NOP, RDREG and WRREG (R176 to R178) -/

theorem step_presents_nop (f : BitVec 8) (a b : Word) (s : State) (rest : List PortCycle) :
    step { s with port := presents (packCmd 0x00#8 f a b) :: rest } =
      .next { s.respond 0#32 with port := rest } := by
  rw [step_presents, commandStep_of_decode_ok (decode_packCmd 0x00#8 f a b), after_nop]

/-- Settles O49: NOP only responds, and an idle cycle only quiets the response. -/
theorem nopChangesNothing : Obligations.NopChangesNothing := by
  refine ⟨decode_packCmd 0x00#8, fun s => ?_, fun s idle rest f a b hrst hvalid => ?_⟩
  · rw [exec_eq_after, after_nop]
    rfl
  · exact ⟨_, _, step_of_portAction_idle (portAction_of_no_command rfl hrst hvalid),
      step_presents_nop f a b s rest, rfl⟩

/-- ENV_STATE reads as its code, zero-extended (R32). -/
theorem readReg_envState (s : State) :
    readReg .envState s =
      match s.env.state with | .waiting => 0#32 | .rising => 1#32 | .falling => 2#32 := by
  rw [readReg]
  cases s.env.state <;> rfl

theorem rdreg_not_wellFormed {a : Word} (h : a.toNat ∉ mappedIndices) :
    (Instr.rdreg a).wellFormed = false := by
  simpa [Instr.wellFormed] using h

/-- Settles O50: a mapped index reads `readReg` of its register, every other index is refused. -/
theorem rdregReturnsEachMappedRegister : Obligations.RdregReturnsEachMappedRegister := by
  refine ⟨decode_packCmd 0x01#8, fun s => ?mapped, fun a s ha => ?unmapped⟩
  case mapped =>
    have hstate := execRdreg_regIdx .envState s
    have hhold := execRdreg_regIdx .envHold s
    rw [readReg_envState] at hstate
    rw [readReg, bitWord_eq_ite] at hhold
    exact ⟨execRdreg_regIdx .status s, execRdreg_regIdx .config s, execRdreg_regIdx .srate s,
      execRdreg_regIdx .dconst s, execRdreg_regIdx .lfsrValue s, execRdreg_regIdx .lfsrMask s,
      execRdreg_regIdx .lfsrBits s, execRdreg_regIdx .phPhase s, execRdreg_regIdx .phDelta s,
      execRdreg_regIdx .envPhase s, hstate, execRdreg_regIdx .envAttack s, execRdreg_regIdx .envDecay s,
      hhold, execRdreg_regIdx .tgCount s, execRdreg_regIdx .tgDelay s, execRdreg_regIdx .tgWidth s,
      execRdreg_regIdx .tgAmp s, execRdreg_regIdx .schLo s, execRdreg_regIdx .schHi s,
      execRdreg_regIdx .schLast s, execRdreg_regIdx .schState s, execRdreg_regIdx .tdLo s,
      execRdreg_regIdx .tdHi s, execRdreg_regIdx .tdLast s, execRdreg_regIdx .tdState s,
      execRdreg_regIdx .tdLastVal s, execRdreg_regIdx .crdCount s, execRdreg_regIdx .crdInterval s⟩
  case unmapped => exact exists_illegalOperand_rsp s (rdreg_not_wellFormed ha)

/-- The two reasons to refuse a WRREG (R178): the index, or the value for LFSR_BITS. -/
theorem wrreg_not_wellFormed {a v : Word}
    (h : a.toNat ∉ writableIndices ∨ (a = 0x12#32 ∧ (v.toNat < 1 ∨ 32 < v.toNat))) :
    (Instr.wrreg a v).wellFormed = false := by
  rw [Instr.wellFormed, legalWrite]
  obtain hidx | ⟨rfl, hv⟩ := h
  · simp [hidx]
  · have hrange : (decide (1 ≤ v.toNat) && decide (v.toNat ≤ 32)) = false := by
      simp only [Bool.and_eq_false_iff, decide_eq_false_iff_not]
      omega
    rw [hrange]
    rfl

/-- Settles O51: a writable index writes its register by `writeReg`, anything else is refused. -/
theorem wrregWritesEachWritableRegister : Obligations.WrregWritesEachWritableRegister := by
  refine ⟨decode_packCmd 0x02#8, fun v s => ?writable, fun a v s h => ?refused⟩
  case writable =>
    exact ⟨execWrreg_regIdx .lfsrValue v s rfl rfl, execWrreg_regIdx .lfsrMask v s rfl rfl,
      execWrreg_regIdx .envAttack v s rfl rfl, execWrreg_regIdx .envDecay v s rfl rfl,
      execWrreg_regIdx .envHold v s rfl rfl, execWrreg_regIdx .tgDelay v s rfl rfl,
      execWrreg_regIdx .tgWidth v s rfl rfl, execWrreg_regIdx .tgAmp v s rfl rfl,
      execWrreg_regIdx .schLo v s rfl rfl, execWrreg_regIdx .schHi v s rfl rfl,
      execWrreg_regIdx .tdLo v s rfl rfl, execWrreg_regIdx .tdHi v s rfl rfl,
      fun hlo hhi =>
        execWrreg_regIdx .lfsrBits v s rfl ((writeInRange_iff .lfsrBits v).2 fun _ => ⟨hlo, hhi⟩)⟩
  case refused => rw [exec_of_not_wellFormed _ s (wrreg_not_wellFormed h), refuse_illegalOperand]

/-! ### Commands of different units (R2, R212)

A command of a unit sees the unit's registers and the build's parameters, and writes those registers and the
response. So a command of another unit changes neither what it sees nor what it leaves. -/

/-- The registers a unit's commands read and write. STATUS stands with FixedPoint, the one unit whose commands
can be refused (R77). -/
def HwUnit.Regs : HwUnit → Type
  | .system => Unit
  | .fixedPoint => BitVec 3
  | .lfsr => Lfsr
  | .phasor => Phasor
  | .envelope => Envelope
  | .trigGen => TrigGen
  | .schmidt => Schmidt
  | .trigDetector => TrigDetector
  | .clockRate => ClockRate

/-- The unit's registers in a state. -/
def HwUnit.regs (s : State) : (u : HwUnit) → u.Regs
  | .system => ()
  | .fixedPoint => s.status
  | .lfsr => s.lfsr
  | .phasor => s.ph
  | .envelope => s.env
  | .trigGen => s.tg
  | .schmidt => s.sch
  | .trigDetector => s.td
  | .clockRate => s.crd

/-- The state with the unit's registers replaced. -/
def HwUnit.put (s : State) : (u : HwUnit) → u.Regs → State
  | .system, _ => s
  | .fixedPoint, st => { s with status := st }
  | .lfsr, x => s.setLfsr x
  | .phasor, x => s.setPh x
  | .envelope, x => s.setEnv x
  | .trigGen, x => s.setTg x
  | .schmidt, x => s.setSch x
  | .trigDetector, x => s.setTd x
  | .clockRate, x => s.setCrd x

/-- What a unit's commands see of a state: a reset state of the build but for the unit's registers. -/
def HwUnit.view (u : HwUnit) (s : State) : State := u.put (State.resetFor s.cfg) (u.regs s)

theorem HwUnit.view_rsp (u : HwUnit) (s : State) (r : Response) : u.view { s with rsp := r } = u.view s := by
  cases u <;> rfl

section
variable {u v : HwUnit} (h : u ≠ v) (x : u.Regs) (y : v.Regs) (s : State)
include h

/-! Both laws hold by definition at each pair of different units, and `h` excludes the equal ones. -/

/-- Two units' registers are written in either order, whichever responses lie in between. -/
theorem HwUnit.put_comm (p q r : Response) :
    { u.put { v.put s y with rsp := p } x with rsp := r } =
      { v.put { u.put s x with rsp := q } y with rsp := r } := by
  cases u <;> cases v <;> trivial

theorem HwUnit.view_put_of_ne : u.view (v.put s y) = u.view s := by
  cases u <;> cases v <;> trivial

end

/-- A command outside the system group answers, and leaves its unit, as it would from the unit's view, and
changes nothing else. -/
theorem after_eq_put_of_view {i : Instr} (h : unitOf i ≠ .system) (s : State) :
    after i s =
      { (unitOf i).put s ((unitOf i).regs (after i ((unitOf i).view s))) with
        rsp := (after i ((unitOf i).view s)).rsp } := by
  cases i with
  | nop => exact absurd rfl h
  | rdreg => exact absurd rfl h
  | wrreg => exact absurd rfl h
  | fxMul => rw [after_fxMul, after_fxMul]; split_ifs <;> rfl
  | fxDiv => rw [after_fxDiv, after_fxDiv]; split_ifs <;> rfl
  | fxCvt => rw [after_fxCvt, after_fxCvt]; split_ifs <;> rfl
  | _ => rfl

/-- A command of another unit does not change what a unit's commands see. -/
theorem view_after_of_unitOf_ne {u : HwUnit} {i : Instr} (hne : u ≠ unitOf i) (h : unitOf i ≠ .system)
    (s : State) : u.view (after i s) = u.view s := by
  rw [after_eq_put_of_view h, HwUnit.view_rsp, HwUnit.view_put_of_ne hne]

/-- Settles O55: each command acts on its unit by what it sees there, which the other leaves as it is. -/
theorem commandsOfDifferentUnitsCommute : Obligations.CommandsOfDifferentUnitsCommute := by
  intro i j s hne hi hj
  rw [after_eq_put_of_view hj (after i s), view_after_of_unitOf_ne hne.symm hi,
    after_eq_put_of_view hi (after j s), view_after_of_unitOf_ne hne hj,
    after_eq_put_of_view hi s, after_eq_put_of_view hj s]
  exact ⟨HwUnit.put_comm hne.symm _ _ s _ _ _, rfl, rfl⟩

/-! ### Reset (R205, R206) -/

theorem portAction_of_rst {s : State} {c : PortCycle} {rest : List PortCycle} (hport : s.port = c :: rest)
    (hrst : c.rst = true) : s.portAction = .reset := by
  simp [State.portAction, hport, hrst]

/-- Settles O10: `rst` overrides the other inputs, and the reset state depends on the build alone. -/
theorem resetCycleGivesTheResetState : Obligations.ResetCycleGivesTheResetState := by
  intro s c rest hport hrst
  rw [step_of_portAction_reset (portAction_of_rst hport hrst), takeCycle_of_port_cons hport]
  rfl

/-- Settles O11, field by field from the definition of the reset state. -/
theorem resetStateIsTheRegisterMaps : Obligations.ResetStateIsTheRegisterMaps := ⟨rfl, rfl⟩

end Sys2Proof.Machine
end
